-- ==== Sys2Proof/Word.lean ====
section
/-! DEFINITION. The block's one data width (00_scope.md rule R10): every byte on the bus, register index, buffer
element, status code and data byte has 8 bits. -/

namespace Sys2Proof

/-- One byte (rule R10). -/
abbrev Byte := BitVec 8

end Sys2Proof
end

