-- ==== Sys2Proof/Config.lean ====
section
/-! DEFINITION. The spec's implementation parameters (00_scope.md rule R9) as plain data, and the platform's choices the
spec leaves to it. State holds one Config, which nothing writes: a statement for every state is one for every value
of every parameter (log 1). -/

namespace Sys2Proof

/-- The categories of the bus-status decoder (41_status_decoder.md rule R91). -/
inductive Category where
  | startSent
  | repstartSent
  | slawAck
  | slawNack
  | slarAck
  | dataTxAck
  | dataTxNack
  | dataRxAck
  | dataRxNack
  | arbLost
  | other
  deriving DecidableEq, Repr

/-- A stretch of caller memory that exists (20_memory.md rules R50, R51: the platform's). -/
structure Region where
  base : Nat
  size : Nat
  deriving DecidableEq, Repr

/-- Whether the bus environment may deliver an event when none is pending (43_bus_commands.md rule R152), and whether the
bus hardware raises again an event that met `Idle` (70_reset_and_hazards.md rule R193, entry U12). DESIGN CHOICE,
log 17. -/
inductive SpuriousPolicy where
  | notAdmitted
  | admittedOnce
  | admittedRepeating
  deriving DecidableEq, Repr

/-- The parameters of rule R9, and the platform's memory map and spurious-event policy. -/
structure Config where
  /-- P_ADDR_BITS, OPEN (D3). -/
  addrBits : Nat
  /-- P_LEN_BITS (D4). -/
  lenBits : Nat
  /-- P_STATUS_MASK (D11). -/
  statusMask : Byte
  /-- P_STATUS_TABLE (D10, rule R107): the first row of a masked code gives its category; a code in no row is OTHER. -/
  statusTable : List (Byte × Category)
  /-- P_READ_LITERAL (D13). -/
  readLiteral : Bool
  /-- What caller memory exists (D18). -/
  regions : List Region
  /-- Spurious events (rule R152). -/
  spurious : SpuriousPolicy
  deriving DecidableEq, Repr

end Sys2Proof
end

