-- ==== Sys2Proof/Syntax.lean ====
section
/-! DEFINITION. The names the spec gives (states, operations, commands, error kinds, result codes) and `Instr`: one
constructor per row of spec/opcode_table.json. The block has no instruction words (30_encoding.md); its rows are what
stands on its ports. -/

namespace Sys2Proof

/-- What kind of request a response answers: the values of RSP are read by it (30_encoding.md rule R63). -/
inductive Answered where
  | transaction
  | errorCode
  deriving DecidableEq, Repr

/-- The port (format) an item stands on (30_encoding.md rule R60); `state` is the table's STATE format. -/
inductive Port where
  | req
  | ev
  | state
  | cmd
  | res
  | rsp (answered : Answered)
  deriving DecidableEq, Repr

/-- `ctx.state`, 3 bits (10_state.md rule R22); `unused7` is code 7 (rule R38). -/
inductive SeqState where
  | idle
  | start
  | sendSlaveWrite
  | writeRegisterAddress
  | writeData
  | repeatedStart
  | readData
  | unused7
  deriving DecidableEq, Repr

/-- `ctx.operation`, 1 bit (rule R23): `WriteRegister` is 0, `ReadRegister` is 1. -/
inductive Operation where
  | writeRegister
  | readRegister
  deriving DecidableEq, Repr

/-- The six bus commands (43_bus_commands.md rules R141 to R147). -/
inductive Cmd where
  | start
  | repstart
  | send (b : Byte)
  | armAck
  | armNack
  | stop
  deriving DecidableEq, Repr

/-- The ACK or NACK choice that `ARM_ACK` and `ARM_NACK` arm (rules R144, R145). -/
inductive Ack where
  | ack
  | nack
  deriving DecidableEq, Repr

/-- The six error kinds (60_exceptions.md rule R161). -/
inductive ErrorKind where
  | startCondition
  | address
  | registerWrite
  | dataWrite
  | repeatedStart
  | dataRead
  deriving DecidableEq, Repr

/-- The result codes (30_encoding.md rule R68). -/
inductive ResultCode where
  | ok
  | inProgress
  | error (k : ErrorKind)
  deriving DecidableEq, Repr

/-- The sequencer's rules: the rows of the table's STATE format (42_sequencer.md rules R111 to R119 and R123, and
10_state.md rule R38 for code 7). -/
inductive StepRow where
  | idle
  | start
  | sendSlaveWrite
  | writeRegisterAddress
  | writeData
  | repeatedStart
  | readSlarAck
  | readByte
  | readOther
  | readLiteral
  | unused
  deriving DecidableEq, Repr

/-- One constructor per row of spec/opcode_table.json. A request's operands are numbers as the foreground gives them: one
wider than its field is refused by rule R86, never truncated. An event row's operands are the low three status bits
(rule R65) and the data byte; a sequencer row's are the event's status and data (42_sequencer.md). -/
inductive Instr where
  -- REQ (30_encoding.md rule R62)
  | writeRegister (sla reg len buf res : Nat)
  | readRegister (sla reg len buf res : Nat)
  | errorCode
  | noRequest
  -- EV (41_status_decoder.md rules R92 to R103)
  | evStartSent (low : BitVec 3) (data : Byte)
  | evRepstartSent (low : BitVec 3) (data : Byte)
  | evSlawAck (low : BitVec 3) (data : Byte)
  | evSlawNack (low : BitVec 3) (data : Byte)
  | evDataTxAck (low : BitVec 3) (data : Byte)
  | evDataTxNack (low : BitVec 3) (data : Byte)
  | evArbLost (low : BitVec 3) (data : Byte)
  | evSlarAck (low : BitVec 3) (data : Byte)
  | evSlarNack (low : BitVec 3) (data : Byte)
  | evDataRxAck (low : BitVec 3) (data : Byte)
  | evDataRxNack (low : BitVec 3) (data : Byte)
  | evOther (status data : Byte)
  -- STATE (42_sequencer.md rules R111 to R119, R123; 10_state.md rule R38)
  | stepIdle (status data : Byte)
  | stepStart (status data : Byte)
  | stepSendSlaveWrite (status data : Byte)
  | stepWriteRegisterAddress (status data : Byte)
  | stepWriteData (status data : Byte)
  | stepRepeatedStart (status data : Byte)
  | stepReadSlarAck (status data : Byte)
  | stepReadByte (status data : Byte)
  | stepReadOther (status data : Byte)
  | stepReadLiteral (status data : Byte)
  | stepUnused (status data : Byte)
  -- CMD (43_bus_commands.md rules R141 to R147; 30_encoding.md rule R70)
  | cmdStart
  | cmdRepstart
  | cmdSend (b : Byte)
  | cmdArmAck
  | cmdArmNack
  | cmdStop
  | cmdUnused0
  | cmdUnused7
  -- RES (30_encoding.md rule R68)
  | resOk
  | resInProgress
  | resStartConditionError
  | resAddressError
  | resRegisterWriteError
  | resDataWriteError
  | resRepeatedStartError
  | resDataReadError
  -- RSP (30_encoding.md rule R63)
  | rspAccepted
  | rspBusy
  deriving DecidableEq, Repr

end Sys2Proof
end

