-- ==== Sys2Proof/Machine/Operands.lean ====
section
/-! DEFINITION. Operand forms: the bus-status decoder, address framing, element addresses, the arm function, the
admission checks' predicates, and which sequencer rule a state and an event select. -/

namespace Sys2Proof

/-- The default P_STATUS_TABLE: the AVR TWI master codes (41_status_decoder.md rules R92 to R103, entry G1). Code 0x48
stands in no row, so it is OTHER (rule R100). -/
def avrStatusTable : List (Byte × Category) :=
  [(0x08, .startSent), (0x10, .repstartSent), (0x18, .slawAck), (0x20, .slawNack), (0x28, .dataTxAck),
   (0x30, .dataTxNack), (0x38, .arbLost), (0x40, .slarAck), (0x50, .dataRxAck), (0x58, .dataRxNack)]

/-- The parameters' defaults (00_scope.md rule R9); P_ADDR_BITS is OPEN and taken as 16 (log 2), all of the 16-bit space
is caller memory (log 3), and no spurious event is admitted (log 17). -/
def defaultConfig : Config where
  addrBits := 16
  lenBits := 8
  statusMask := 0xF8
  statusTable := avrStatusTable
  readLiteral := false
  regions := [⟨0, 65536⟩]
  spurious := .notAdmitted

/-- P_STATUS_TABLE as a total function: the first row with the code, else OTHER (rules R103, R107). -/
def lookupCategory : List (Byte × Category) → Byte → Category
  | [], _ => .other
  | (code, c) :: rest, b => if code = b then c else lookupCategory rest b

/-- `decode(s)` of the bus-status decoder (rule R90): a function of `s & P_STATUS_MASK` alone. -/
def categorize (cfg : Config) (status : Byte) : Category :=
  lookupCategory cfg.statusTable (status &&& cfg.statusMask)

/-- The raw status of an event row: its code in bits 7..3 with the low three bits given (30_encoding.md rule R65). -/
def statusOf (code : Byte) (low : BitVec 3) : Byte :=
  code ||| low.setWidth 8

/-- SLA+W: the 7-bit address in bits 7..1, direction bit 0 (30_encoding.md rule R66). -/
def slaW (sla : BitVec 7) : Byte :=
  sla ++ (0#1)

/-- SLA+R: the 7-bit address in bits 7..1, direction bit 1 (rule R66). -/
def slaR (sla : BitVec 7) : Byte :=
  sla ++ (1#1)

/-- `arm(h, L)` (42_sequencer.md rule R120): ACK unless element `h` is the last. The rule gives it for `h < L`; that it is
ARM_NACK for `h >= L`, where no element is left, is the model's choice. DESIGN CHOICE (log 37), unsafe. -/
def arm (h len : Nat) : Cmd :=
  if h + 1 < len then .armAck else .armNack

/-- An address is valid caller memory when it has P_ADDR_BITS bits and lies in a region that exists (20_memory.md rules
R40, R51). -/
def validAddr (cfg : Config) (a : Nat) : Bool :=
  decide (a < 2 ^ cfg.addrBits) && cfg.regions.any fun r => decide (r.base ≤ a) && decide (a < r.base + r.size)

/-- Check 3 of rule R86: the base is an address, the region does not wrap (rule R44), and each of its bytes is valid.
An empty region asks nothing of memory (log 14). -/
def regionValid (cfg : Config) (buf len : Nat) : Bool :=
  decide (buf < 2 ^ cfg.addrBits) && decide (buf + len ≤ 2 ^ cfg.addrBits) &&
    (List.range len).all fun i => validAddr cfg (buf + i)

/-- `a` lies in `[buf, buf + len)` (20_memory.md rule R52). -/
def inBuffer (buf len a : Nat) : Bool :=
  decide (buf ≤ a) && decide (a < buf + len)

/-- The byte of a result code (30_encoding.md rule R68). -/
def resultByte : ResultCode → Byte
  | .ok => 0x00
  | .inProgress => 0x01
  | .error .startCondition => 0x02
  | .error .address => 0x03
  | .error .registerWrite => 0x04
  | .error .dataWrite => 0x05
  | .error .repeatedStart => 0x06
  | .error .dataRead => 0x07

/-- `RSP` ACCEPTED (30_encoding.md rule R63). -/
def rspAcceptedByte : Byte := 0x00

/-- `RSP` BUSY (rule R63). -/
def rspBusyByte : Byte := 0x01

/-- The command starts a bus operation, so that an event answers it: all but STOP (43_bus_commands.md rules R147, R148). -/
def startsOperation : Cmd → Bool
  | .start => true
  | .repstart => true
  | .send _ => true
  | .armAck => true
  | .armNack => true
  | .stop => false

/-- The sequencer rule that `ctx.state` and the event's status select (42_sequencer.md rule R110). -/
def rowOf (cfg : Config) (q : SeqState) (status : Byte) : StepRow :=
  match q with
  | .idle => .idle
  | .start => .start
  | .sendSlaveWrite => .sendSlaveWrite
  | .writeRegisterAddress => .writeRegisterAddress
  | .writeData => .writeData
  | .repeatedStart => .repeatedStart
  | .readData =>
    if cfg.readLiteral then .readLiteral
    else if categorize cfg status = .slarAck then .readSlarAck
    else if categorize cfg status = .dataRxAck ∨ categorize cfg status = .dataRxNack then .readByte
    else .readOther
  | .unused7 => .unused

/-- The table's row of the STATE format for a sequencer rule, with the event's status and data as operands. -/
def stepInstr (r : StepRow) (status data : Byte) : Instr :=
  match r with
  | .idle => .stepIdle status data
  | .start => .stepStart status data
  | .sendSlaveWrite => .stepSendSlaveWrite status data
  | .writeRegisterAddress => .stepWriteRegisterAddress status data
  | .writeData => .stepWriteData status data
  | .repeatedStart => .stepRepeatedStart status data
  | .readSlarAck => .stepReadSlarAck status data
  | .readByte => .stepReadByte status data
  | .readOther => .stepReadOther status data
  | .readLiteral => .stepReadLiteral status data
  | .unused => .stepUnused status data

end Sys2Proof
end

