-- ==== Sys2Proof/WellFormed.lean ====
section
/-! DEFINITION. When an instruction has an encoding on its port: each operand fits its field, an event row's status has
that row's code, and a ReadData row is the one its event selects. -/

namespace Sys2Proof

/-- The operands of a request fit the fields of `REQ` (30_encoding.md rule R61). -/
def reqFits (cfg : Config) (sla reg len buf res : Nat) : Bool :=
  decide (sla < 2 ^ 7) && decide (reg < 2 ^ 8) && decide (len < 2 ^ cfg.lenBits) && decide (buf < 2 ^ cfg.addrBits) &&
    decide (res < 2 ^ cfg.addrBits)

/-- The masked code has a row of its own in the EV format (rules R92 to R102, code 0x48 among them). -/
def listedCode (code : Byte) : Bool :=
  [0x08, 0x10, 0x18, 0x20, 0x28, 0x30, 0x38, 0x40, 0x48, 0x50, 0x58].contains code

/-- Well-formed: the instruction has an encoding. -/
def Instr.wf (cfg : Config) : Instr → Bool
  | .writeRegister sla reg len buf res => reqFits cfg sla reg len buf res
  | .readRegister sla reg len buf res => reqFits cfg sla reg len buf res
  | .errorCode => true
  | .noRequest => true
  | .evStartSent _ _ => true
  | .evRepstartSent _ _ => true
  | .evSlawAck _ _ => true
  | .evSlawNack _ _ => true
  | .evDataTxAck _ _ => true
  | .evDataTxNack _ _ => true
  | .evArbLost _ _ => true
  | .evSlarAck _ _ => true
  | .evSlarNack _ _ => true
  | .evDataRxAck _ _ => true
  | .evDataRxNack _ _ => true
  | .evOther status _ => !listedCode (status &&& 0xF8)
  | .stepIdle _ _ => true
  | .stepStart _ _ => true
  | .stepSendSlaveWrite _ _ => true
  | .stepWriteRegisterAddress _ _ => true
  | .stepWriteData _ _ => true
  | .stepRepeatedStart _ _ => true
  | .stepReadSlarAck status _ => decide (rowOf cfg .readData status = .readSlarAck)
  | .stepReadByte status _ => decide (rowOf cfg .readData status = .readByte)
  | .stepReadOther status _ => decide (rowOf cfg .readData status = .readOther)
  | .stepReadLiteral status _ => decide (rowOf cfg .readData status = .readLiteral)
  | .stepUnused _ _ => true
  | .cmdStart => true
  | .cmdRepstart => true
  | .cmdSend _ => true
  | .cmdArmAck => true
  | .cmdArmNack => true
  | .cmdStop => true
  | .cmdUnused0 => true
  | .cmdUnused7 => true
  | .resOk => true
  | .resInProgress => true
  | .resStartConditionError => true
  | .resAddressError => true
  | .resRegisterWriteError => true
  | .resDataWriteError => true
  | .resRepeatedStartError => true
  | .resDataReadError => true
  | .rspAccepted => true
  | .rspBusy => true

end Sys2Proof
end

