-- ==== Sys2Proof/Decode.lean ====
section
/-! DEFINITION. Reading an item of a port, total on every pattern of its format; the table's row it stands for, rejecting
by name; then the encoder; then the decoder by the numbering of spec/opcode_table.json. Encodings: 30_encoding.md rules R60
to R71. -/

namespace Sys2Proof

/-- The one reading of a pattern of a port (rule R71): a row of the table, or one of the values that have none. -/
inductive Reading where
  | row (i : Instr)
  /-- RES 0x08 to 0xFF: never written by the block (rules R68, R70). -/
  | resultNeverWritten (v : Byte)
  /-- RSP 0x02 to 0xFF to a transaction request: never produced (rules R63, R70). -/
  | responseNeverProduced (v : Byte)
  /-- RSP to ERROR_CODE: the value of `last_status_code` (rule R63). -/
  | statusResponse (v : Byte)
  deriving DecidableEq, Repr

/-- Why a word is no instruction on its port. -/
inductive DecodeError where
  /-- More bits than the format's width: no pattern of it (rule R60). -/
  | wordTooWide (p : Port)
  /-- Its reading is no row of the table. -/
  | notARow (r : Reading)
  deriving DecidableEq, Repr

/-- The width of each format (rule R60). The STATE row is the three bits of `ctx.state`; the model writes its two operand
bytes after them, as the EV format lays them out (log 9). -/
def portWidth (cfg : Config) : Port → Nat
  | .req => 17 + cfg.lenBits + 2 * cfg.addrBits
  | .ev => 16
  | .state => 19
  | .cmd => 11
  | .res => 8
  | .rsp _ => 8

/-- The field of `width` bits from bit `lo` upward, unsigned (00_scope.md rule R11). -/
def field (bits lo width : Nat) : Nat :=
  bits / 2 ^ lo % 2 ^ width

/-- `REQ` (rules R61, R62): `op` in bits 1..0, then sla, reg, len, buf and res from bit 2 upward. -/
def decodeReq (cfg : Config) (bits : Nat) : Instr :=
  let sla := field bits 2 7
  let reg := field bits 9 8
  let len := field bits 17 cfg.lenBits
  let buf := field bits (17 + cfg.lenBits) cfg.addrBits
  let res := field bits (17 + cfg.lenBits + cfg.addrBits) cfg.addrBits
  if field bits 0 2 = 1 then .writeRegister sla reg len buf res
  else if field bits 0 2 = 2 then .readRegister sla reg len buf res
  else if field bits 0 2 = 3 then .errorCode
  else .noRequest

/-- The EV row of a raw status and its data byte: the rows are told apart by bits 7..3 (rule R65). -/
def eventInstr (status data : Byte) : Instr :=
  let low := status.extractLsb' 0 3
  let code := status &&& 0xF8
  if code = 0x08 then .evStartSent low data
  else if code = 0x10 then .evRepstartSent low data
  else if code = 0x18 then .evSlawAck low data
  else if code = 0x20 then .evSlawNack low data
  else if code = 0x28 then .evDataTxAck low data
  else if code = 0x30 then .evDataTxNack low data
  else if code = 0x38 then .evArbLost low data
  else if code = 0x40 then .evSlarAck low data
  else if code = 0x48 then .evSlarNack low data
  else if code = 0x50 then .evDataRxAck low data
  else if code = 0x58 then .evDataRxNack low data
  else .evOther status data

/-- `EV` (rule R64): status in bits 7..0, data in bits 15..8. -/
def decodeEv (bits : Nat) : Instr :=
  eventInstr (BitVec.ofNat 8 (field bits 0 8)) (BitVec.ofNat 8 (field bits 8 8))

/-- `ctx.state` from its code (10_state.md rule R22). -/
def stateOfCode (code : Nat) : SeqState :=
  if code = 0 then .idle
  else if code = 1 then .start
  else if code = 2 then .sendSlaveWrite
  else if code = 3 then .writeRegisterAddress
  else if code = 4 then .writeData
  else if code = 5 then .repeatedStart
  else if code = 6 then .readData
  else .unused7

/-- The code of `ctx.state` (rule R22). -/
def codeOfState : SeqState → Nat
  | .idle => 0
  | .start => 1
  | .sendSlaveWrite => 2
  | .writeRegisterAddress => 3
  | .writeData => 4
  | .repeatedStart => 5
  | .readData => 6
  | .unused7 => 7

/-- STATE: the code of `ctx.state` in bits 2..0 and the operands above it. Code 6 has four rows; the event's category and
P_READ_LITERAL select one (42_sequencer.md rule R110). -/
def decodeState (cfg : Config) (bits : Nat) : Instr :=
  let status := BitVec.ofNat 8 (field bits 3 8)
  stepInstr (rowOf cfg (stateOfCode (field bits 0 3)) status) status (BitVec.ofNat 8 (field bits 11 8))

/-- `CMD` (rule R67): code in bits 2..0, byte in bits 10..3, ignored but for SEND. -/
def decodeCmd (bits : Nat) : Instr :=
  if field bits 0 3 = 0 then .cmdUnused0
  else if field bits 0 3 = 1 then .cmdStart
  else if field bits 0 3 = 2 then .cmdRepstart
  else if field bits 0 3 = 3 then .cmdSend (BitVec.ofNat 8 (field bits 3 8))
  else if field bits 0 3 = 4 then .cmdArmAck
  else if field bits 0 3 = 5 then .cmdArmNack
  else if field bits 0 3 = 6 then .cmdStop
  else .cmdUnused7

/-- `RES` (rules R68, R70). -/
def readRes (bits : Nat) : Reading :=
  if bits = 0 then .row .resOk
  else if bits = 1 then .row .resInProgress
  else if bits = 2 then .row .resStartConditionError
  else if bits = 3 then .row .resAddressError
  else if bits = 4 then .row .resRegisterWriteError
  else if bits = 5 then .row .resDataWriteError
  else if bits = 6 then .row .resRepeatedStartError
  else if bits = 7 then .row .resDataReadError
  else .resultNeverWritten (BitVec.ofNat 8 bits)

/-- `RSP`, by the request it answers (rule R63). -/
def readRsp (answered : Answered) (bits : Nat) : Reading :=
  match answered with
  | .errorCode => .statusResponse (BitVec.ofNat 8 bits)
  | .transaction =>
    if bits = 0 then .row .rspAccepted
    else if bits = 1 then .row .rspBusy
    else .responseNeverProduced (BitVec.ofNat 8 bits)

/-- The reading of a pattern of a port's format: total (rule R71). -/
def readPort (cfg : Config) (p : Port) (bits : Nat) : Reading :=
  match p with
  | .req => .row (decodeReq cfg bits)
  | .ev => .row (decodeEv bits)
  | .state => .row (decodeState cfg bits)
  | .cmd => .row (decodeCmd bits)
  | .res => readRes bits
  | .rsp answered => readRsp answered bits

/-- The table's row of a reading, if it is one. -/
def rowOfReading (r : Reading) : Except DecodeError Instr :=
  match r with
  | .row i => .ok i
  | .resultNeverWritten _ => .error (.notARow r)
  | .responseNeverProduced _ => .error (.notARow r)
  | .statusResponse _ => .error (.notARow r)

/-- The instruction a word on a port stands for. -/
def decode (cfg : Config) (p : Port) (bits : Nat) : Except DecodeError Instr :=
  if 2 ^ portWidth cfg p ≤ bits then .error (.wordTooWide p) else rowOfReading (readPort cfg p bits)

/-- A `REQ` word from its fields (rule R61). -/
def encodeReq (cfg : Config) (op sla reg len buf res : Nat) : Nat :=
  op + 2 ^ 2 * sla + 2 ^ 9 * reg + 2 ^ 17 * len + 2 ^ (17 + cfg.lenBits) * buf +
    2 ^ (17 + cfg.lenBits + cfg.addrBits) * res

/-- An `EV` word (rule R64). -/
def encodeEv (status data : Byte) : Nat :=
  status.toNat + 2 ^ 8 * data.toNat

/-- A STATE word: the state's code, then the operands (log 9). -/
def encodeState (q : SeqState) (status data : Byte) : Nat :=
  codeOfState q + 2 ^ 3 * status.toNat + 2 ^ 11 * data.toNat

/-- The word of a bus command (rule R67). -/
def encodeCmd : Cmd → Nat
  | .start => 1
  | .repstart => 2
  | .send b => 3 + 2 ^ 3 * b.toNat
  | .armAck => 4
  | .armNack => 5
  | .stop => 6

/-- The port and word of an instruction. -/
def encode (cfg : Config) : Instr → Port × Nat
  | .writeRegister sla reg len buf res => (.req, encodeReq cfg 1 sla reg len buf res)
  | .readRegister sla reg len buf res => (.req, encodeReq cfg 2 sla reg len buf res)
  | .errorCode => (.req, 3)
  | .noRequest => (.req, 0)
  | .evStartSent low data => (.ev, encodeEv (statusOf 0x08 low) data)
  | .evRepstartSent low data => (.ev, encodeEv (statusOf 0x10 low) data)
  | .evSlawAck low data => (.ev, encodeEv (statusOf 0x18 low) data)
  | .evSlawNack low data => (.ev, encodeEv (statusOf 0x20 low) data)
  | .evDataTxAck low data => (.ev, encodeEv (statusOf 0x28 low) data)
  | .evDataTxNack low data => (.ev, encodeEv (statusOf 0x30 low) data)
  | .evArbLost low data => (.ev, encodeEv (statusOf 0x38 low) data)
  | .evSlarAck low data => (.ev, encodeEv (statusOf 0x40 low) data)
  | .evSlarNack low data => (.ev, encodeEv (statusOf 0x48 low) data)
  | .evDataRxAck low data => (.ev, encodeEv (statusOf 0x50 low) data)
  | .evDataRxNack low data => (.ev, encodeEv (statusOf 0x58 low) data)
  | .evOther status data => (.ev, encodeEv status data)
  | .stepIdle status data => (.state, encodeState .idle status data)
  | .stepStart status data => (.state, encodeState .start status data)
  | .stepSendSlaveWrite status data => (.state, encodeState .sendSlaveWrite status data)
  | .stepWriteRegisterAddress status data => (.state, encodeState .writeRegisterAddress status data)
  | .stepWriteData status data => (.state, encodeState .writeData status data)
  | .stepRepeatedStart status data => (.state, encodeState .repeatedStart status data)
  | .stepReadSlarAck status data => (.state, encodeState .readData status data)
  | .stepReadByte status data => (.state, encodeState .readData status data)
  | .stepReadOther status data => (.state, encodeState .readData status data)
  | .stepReadLiteral status data => (.state, encodeState .readData status data)
  | .stepUnused status data => (.state, encodeState .unused7 status data)
  | .cmdStart => (.cmd, encodeCmd .start)
  | .cmdRepstart => (.cmd, encodeCmd .repstart)
  | .cmdSend b => (.cmd, encodeCmd (.send b))
  | .cmdArmAck => (.cmd, encodeCmd .armAck)
  | .cmdArmNack => (.cmd, encodeCmd .armNack)
  | .cmdStop => (.cmd, encodeCmd .stop)
  | .cmdUnused0 => (.cmd, 0)
  | .cmdUnused7 => (.cmd, 7)
  | .resOk => (.res, 0)
  | .resInProgress => (.res, 1)
  | .resStartConditionError => (.res, 2)
  | .resAddressError => (.res, 3)
  | .resRegisterWriteError => (.res, 4)
  | .resDataWriteError => (.res, 5)
  | .resRepeatedStartError => (.res, 6)
  | .resDataReadError => (.res, 7)
  | .rspAccepted => (.rsp .transaction, 0)
  | .rspBusy => (.rsp .transaction, 1)

/-- The input port on which a word of the table is read when only its bits are known (log 7): REQ for a word of more than
16 bits and for one of at most 8 bits below 4, a request's `op`; EV for any other. -/
def tablePort (nbits w : Nat) : Port :=
  if 16 < nbits then .req
  else if 8 < nbits then .ev
  else if w < 4 then .req
  else .ev

/-- The instruction the decoder reads from a word of spec/opcode_table.json, at the default parameters (log 7). -/
def decodeTableWord (nbits w : Nat) : Option Instr :=
  (decode defaultConfig (tablePort nbits w) w).toOption

end Sys2Proof
end

