-- ==== Sys2Proof/Machine/State.lean ====
section
/-! DEFINITION. The machine's state as plain data (10_state.md), the schedule's entries, and the reasons to stop. -/

namespace Sys2Proof.Machine

open Sys2Proof

/-- The transaction context: the nine registers S0 to S8 (10_state.md rule R21). -/
structure Context where
  /-- S0 (rule R22). -/
  state : SeqState
  /-- S1 (rule R23). -/
  operation : Operation
  /-- S2, unshifted (rule R24). -/
  slaveAddress : BitVec 7
  /-- S3 (rule R25). -/
  dataRegister : Byte
  /-- S4, an address of P_ADDR_BITS bits (rule R26). -/
  buffer : Nat
  /-- S5, P_LEN_BITS bits (rule R27). -/
  bufferLength : Nat
  /-- S6, P_LEN_BITS bits (rule R28). -/
  handledBytes : Nat
  /-- S7, an address of P_ADDR_BITS bits (rule R29). -/
  resultSlot : Nat
  /-- S8 (rule R30). -/
  lastStatusCode : Byte
  deriving DecidableEq, Repr

/-- The bus environment: `bus_pending` (10_state.md rule R33), and the last two commands the bus hardware received, in
which it holds the ACK/NACK choice it was armed with (rule R34) and the "last command" of 43_bus_commands.md rule
R151 (log 11). -/
structure Bus where
  pending : Bool
  last : Option Cmd
  before : Option Cmd
  deriving DecidableEq, Repr

/-- Caller memory (20_memory.md rule R40): addresses strictly rising, no entry equal to what an unlisted address reads as. -/
abbrev Memory := List Host.Cell

/-- One entry of the schedule: which agent moves next, with what (00_scope.md rules R7, R8, R16; 30_encoding.md rule R73).
The event handler has no entry of its own, and none puts an item on an output of the block (log 8). -/
inductive Act where
  /-- The foreground presents a `REQ` item. -/
  | req (bits : Nat)
  /-- The bus environment delivers an `EV` item. -/
  | ev (bits : Nat)
  /-- `WR sla, reg, buf, len, res`: the call `write_register`, its arguments any numbers. -/
  | wr (sla reg buf len res : Nat)
  /-- `RD sla, reg, buf, len, res`: the call `read_register`. -/
  | rd (sla reg buf len res : Nat)
  /-- `LDB addr`: the foreground reads one caller-memory byte (40_request_api.md rule R89). -/
  | ldb (addr : Nat)
  /-- The foreground writes one caller-memory byte (70_reset_and_hazards.md rules R186, R187; log 34). -/
  | stb (addr : Nat) (v : Byte)
  /-- Power-on reset (70_reset_and_hazards.md rule R180). -/
  | powerOn
  /-- A reset of the block in mid-transaction (rule R182). -/
  | blockReset
  deriving DecidableEq, Repr

/-- The machine. `cfg` is never written (log 1); `cmds`, `rsp` and `seen` are the outputs of the step just taken
(log 10); `agenda` is the schedule of the coming steps (log 5). -/
structure State where
  cfg : Config
  ctx : Context
  bus : Bus
  mem : Memory
  agenda : List Act
  cmds : List Cmd
  rsp : Option Byte
  seen : Option Byte
  deriving DecidableEq, Repr

/-- Why the machine stops, its state recorded as it is for ever. -/
inductive Fault where
  /-- Raised by the foreground's `LDB` or store of a borrowed buffer byte while busy (70_reset_and_hazards.md rule R186,
  entry U2). Safe: the source calls it a data race. -/
  | bufferAccessWhileBusy
  /-- Raised by the foreground's store to the result byte while busy (rule R187, entry U3). Safe. -/
  | resultSlotWriteWhileBusy
  /-- Raised by a `MemRead` or `MemWrite` of the block, or an access of the foreground, at an address that is not valid
  caller memory: stuck (20_memory.md rule R51, entry U10). Safe. -/
  | memoryNotValid
  /-- Raised by the delivery of an event when none is pending and spurious events are not admitted: the bus environment has
  no step (43_bus_commands.md rules R146, R152). Safe. -/
  | noEventPending
  deriving DecidableEq, Repr

/-- Situations the spec gives no meaning. -/
inductive Refusal where
  /-- An instruction without a meaning in this model. Safe. -/
  | notModelled (mnemonic : String)
  /-- `ctx.state` holds code 7: raised by a request step and an event step (10_state.md rule R38). Safe. -/
  | stateEncodingUnused
  /-- A request in `Idle` with a slave address of 0x80 or more (40_request_api.md rule R86, check 1). Safe. -/
  | slaveAddressTooWide
  /-- A request in `Idle` whose register index or length does not fit its field (rule R86, check 2). Safe. -/
  | operandTooWide
  /-- A request in `Idle` whose buffer region or result byte is not valid caller memory (20_memory.md rule R51). Safe. -/
  | regionNotValid
  /-- A request in `Idle` whose result byte lies in its buffer (20_memory.md rule R52). Safe. -/
  | resultSlotInBuffer
  /-- A command code 0 or 7, never produced by the block (30_encoding.md rule R70). Safe. -/
  | commandCodeUnused
  /-- A sequencer row that `ctx.state`, the event and P_READ_LITERAL do not select (42_sequencer.md rule R110). Safe. -/
  | stepNotSelected
  /-- The bits of a scheduled item are no pattern of its port's format (30_encoding.md rule R60). Safe. -/
  | undecodable (e : DecodeError)
  deriving DecidableEq, Repr

/-- The outcome of a step of this machine. -/
abbrev Result := Host.Outcome State Fault Refusal

/-- Every context register 0 (10_state.md rule R37). -/
def Context.zero : Context where
  state := .idle
  operation := .writeRegister
  slaveAddress := 0
  dataRegister := 0
  buffer := 0
  bufferLength := 0
  handledBytes := 0
  resultSlot := 0
  lastStatusCode := 0

/-- The bus environment after power-on: no event pending (70_reset_and_hazards.md rule R180), no command received yet
(log 11). -/
def Bus.reset : Bus where
  pending := false
  last := none
  before := none

/-- The machine right after power-on reset (rules R37, R180): context zero, no event pending, memory with nothing listed
(log 4), nothing scheduled (log 5), no output (log 10), the parameters at their defaults (log 2). -/
def State.reset : State where
  cfg := defaultConfig
  ctx := Context.zero
  bus := Bus.reset
  mem := []
  agenda := []
  cmds := []
  rsp := none
  seen := none

end Sys2Proof.Machine
end

