-- ==== Sys2Proof/Machine/Flags.lean ====
section
/-! DEFINITION. The status the spec gives: busy (10_state.md rule R31), the completion flag in the result byte (rule R32),
and the borrowed bytes of the running transaction (20_memory.md rules R41, R54). There are no condition codes. -/

namespace Sys2Proof.Machine

open Sys2Proof

/-- What an unlisted address of caller memory reads as (log 4). -/
def blankByte : Byte := 0x00

/-- Busy: `ctx.state != Idle` (10_state.md rule R31). -/
def State.busy (s : State) : Bool :=
  decide (s.ctx.state ≠ .idle)

/-- A final result code: any value the foreground reads but RES_IN_PROGRESS (10_state.md rule R32, 20_memory.md R55). -/
def isFinalResult (b : Byte) : Bool :=
  decide (b ≠ resultByte .inProgress)

/-- `a` is a byte of the running transaction's buffer (20_memory.md rule R41). -/
def State.inBuffer (s : State) (a : Nat) : Bool :=
  Sys2Proof.inBuffer s.ctx.buffer s.ctx.bufferLength a

/-- The ACK or NACK choice the bus hardware was armed with last, if its last command was an arm (10_state.md rule R34). -/
def Bus.armed (b : Bus) : Option Ack :=
  match b.last with
  | some .armAck => some .ack
  | some .armNack => some .nack
  | some .start => none
  | some .repstart => none
  | some (.send _) => none
  | some .stop => none
  | none => none

end Sys2Proof.Machine
end

