-- ==== Sys2Proof/Machine/Ops.lean ====
section
/-! DEFINITION. The named operations on memory, registers and ports; the entry of a bus event; the two ends of a
transaction, of which `abort` is the block's one way of taking an error (42_sequencer.md rules R121, R122). -/

namespace Sys2Proof.Machine

open Sys2Proof

/-- Goes on from a next state; a fault or a refusal stays. -/
def andThen (o : Result) (f : State → Result) : Result :=
  match o with
  | .next s => f s
  | .fault r => .fault r
  | .refused r => .refused r

/-- The canonical form of memory: addresses strictly rising, no entry that holds the blank byte. -/
def Memory.wf : Memory → Bool
  | [] => true
  | (k, v) :: rest => decide (v ≠ blankByte) && rest.all (fun c => decide (k < c.1)) && Memory.wf rest

/-- The byte held at an address. -/
def Memory.read : Memory → Nat → Byte
  | [], _ => blankByte
  | (k, v) :: rest, a => if k = a then v else Memory.read rest a

/-- Puts a byte in front of the entries above it, unless it is what an unlisted address reads as. -/
def Memory.cons (a : Nat) (v : Byte) (m : Memory) : Memory :=
  if v = blankByte then m else (a, v) :: m

/-- Memory with one byte set, in canonical form again. -/
def Memory.write : Memory → Nat → Byte → Memory
  | [], a, v => Memory.cons a v []
  | (k, w) :: rest, a, v =>
    if a < k then Memory.cons a v ((k, w) :: rest)
    else if a = k then Memory.cons a v rest
    else (k, w) :: Memory.write rest a v

/-- The byte of caller memory at `a`, as the model reads it in statements. -/
def State.byteAt (s : State) (a : Nat) : Byte :=
  s.mem.read a

/-- `MemRead(a, 1)` (20_memory.md rules R42, R51), its byte given to what follows. -/
def withByteAt (a : Nat) (s : State) (f : Byte → Result) : Result :=
  if validAddr s.cfg a then f (s.byteAt a) else .fault .memoryNotValid

/-- `MemWrite(a, 1, v)` (20_memory.md rules R43, R51). -/
def memWrite (a : Nat) (v : Byte) (s : State) : Result :=
  if validAddr s.cfg a then .next { s with mem := s.mem.write a v } else .fault .memoryNotValid

/-- `ctx.state <- q`: the block's control transfer (10_state.md rule R22). -/
def State.setSeq (s : State) (q : SeqState) : State :=
  { s with ctx := { s.ctx with state := q } }

/-- `ctx.handled_bytes <- n`. -/
def State.setHandled (s : State) (n : Nat) : State :=
  { s with ctx := { s.ctx with handledBytes := n } }

/-- `ctx.last_status_code <- b`. -/
def State.setLastStatus (s : State) (b : Byte) : State :=
  { s with ctx := { s.ctx with lastStatusCode := b } }

/-- `bus_pending <- b`. -/
def State.setPending (s : State) (b : Bool) : State :=
  { s with bus := { s.bus with pending := b } }

/-- `return b` on the request port (30_encoding.md rule R63). -/
def State.respond (s : State) (b : Byte) : State :=
  { s with rsp := some b }

/-- The value a request gives the seven fields it supplies (40_request_api.md rules R81, R82; `handled_bytes` to 0;
`state` and `last_status_code` are not among them). -/
def State.populate (s : State) (op : Operation) (sla reg len buf res : Nat) : State :=
  { s with ctx := { s.ctx with
      operation := op
      slaveAddress := BitVec.ofNat 7 sla
      dataRegister := BitVec.ofNat 8 reg
      buffer := buf
      bufferLength := len
      handledBytes := 0
      resultSlot := res } }

/-- The bus hardware receives a command: `bus_pending` by the last command received (43_bus_commands.md rule R148). -/
def Bus.receive (b : Bus) (c : Cmd) : Bus where
  pending := startsOperation c
  last := some c
  before := b.last

/-- `emit(c)`: the command joins the step's list (00_scope.md rule R12) and the bus hardware receives it, which it does in
order at the end of the step; nothing of the block reads the bus in between (43_bus_commands.md rule R140, log 12). -/
def State.emit (s : State) (c : Cmd) : State :=
  { s with cmds := s.cmds ++ [c], bus := s.bus.receive c }

/-- Writes a result code to the byte at `ctx.result_slot` (20_memory.md rule R45). -/
def writeResult (r : ResultCode) (s : State) : Result :=
  memWrite s.ctx.resultSlot (resultByte r) s

/-- The address of buffer element `i` (20_memory.md rule R44). -/
def State.elementAddr (s : State) (i : Nat) : Nat :=
  s.ctx.buffer + i

/-- `handled_bytes + 1` on P_LEN_BITS bits (42_sequencer.md rule R124). -/
def State.handledNext (s : State) : Nat :=
  (s.ctx.handledBytes + 1) % 2 ^ s.cfg.lenBits

/-- `finish_ok()` (42_sequencer.md rule R121). -/
def finishOk (s : State) : Result :=
  andThen (writeResult .ok s) fun t => .next ((t.emit .stop).setSeq .idle)

/-- `abort(k)` in the event step of raw status `status` (42_sequencer.md rule R122): the block's error entry. The error is
recorded in the result byte and in `last_status_code`; no other register changes. -/
def abort (k : ErrorKind) (status : Byte) (s : State) : Result :=
  andThen (writeResult (.error k) s) fun t => .next (((t.setLastStatus status).emit .stop).setSeq .idle)

/-- The entry of a bus event (60_exceptions.md rule R172, 43_bus_commands.md rule R146): it clears `bus_pending` and saves
nothing. There is no return: the event step ends and nothing is restored (60_exceptions.md rule R173). -/
def State.enterEvent (s : State) : State :=
  s.setPending false

/-- Runs a sequencer rule where the state and the event select it (42_sequencer.md rule R110), and refuses elsewhere. -/
def onRow (r : StepRow) (status : Byte) (s : State) (body : Result) : Result :=
  if rowOf s.cfg s.ctx.state status = r then body else .refused .stepNotSelected

/-- The next state of an outcome, if there is one. -/
def nextOf (o : Result) : Option State :=
  match o with
  | .next s => some s
  | .fault _ => none
  | .refused _ => none

/-- The fault of an outcome, if it is one. -/
def faultOf (o : Result) : Option Fault :=
  match o with
  | .next _ => none
  | .fault r => some r
  | .refused _ => none

/-- The refusal of an outcome, if it is one. -/
def refusalOf (o : Result) : Option Refusal :=
  match o with
  | .next _ => none
  | .fault _ => none
  | .refused r => some r

end Sys2Proof.Machine
end

