-- ==== Sys2Proof/Machine/Agents.lean ====
section
/-! DEFINITION. The agents' steps that are no row of the table: the foreground's plain accesses to caller memory
(40_request_api.md rule R89, 70_reset_and_hazards.md rules R186, R187) and the two resets (rules R180 to R182). -/

namespace Sys2Proof.Machine

open Sys2Proof

/-- `LDB a`: the foreground reads one byte. While busy it may read the result byte (rule R89), and a borrowed buffer byte
is the hazard of rule R186. Where the result byte lies inside the buffer, which rule R52 keeps out of every run, both rules
speak of the byte and the model takes the hazard. DESIGN CHOICE (log 38), safe. -/
def foregroundLoad (a : Nat) (s : State) : Result :=
  if s.busy && s.inBuffer a then .fault .bufferAccessWhileBusy
  else withByteAt a s fun b => .next { s with seen := some b }

/-- The foreground writes one byte. While busy a borrowed buffer byte is the hazard of rule R186 and the result byte that
of rule R187. A byte that is both is the hazard of rule R186. DESIGN CHOICE (log 38), safe. -/
def foregroundStore (a : Nat) (v : Byte) (s : State) : Result :=
  if s.busy && s.inBuffer a then .fault .bufferAccessWhileBusy
  else if s.busy && decide (a = s.ctx.resultSlot) then .fault .resultSlotWriteWhileBusy
  else memWrite a v s

/-- Power-on reset (rules R180, R181): the context and the bus hardware; no memory is written, no command emitted. -/
def powerOnReset (s : State) : State :=
  { s with ctx := Context.zero, bus := Bus.reset }

/-- A reset of the block in mid-transaction (rule R182): the context only; `bus_pending` keeps its value. -/
def midReset (s : State) : State :=
  { s with ctx := Context.zero }

end Sys2Proof.Machine
end

