-- ==== Sys2Proof/Machine/BusCommands.lean ====
section
/-! DEFINITION. The command port: what each bus command does to the bus environment when it is received (43_bus_commands.md
rules R140 to R148). -/

namespace Sys2Proof.Machine

open Sys2Proof

/-- START (rule R141): starts a bus operation, so an event becomes pending. -/
def execCmdStart (s : State) : Result :=
  .next (s.emit .start)

/-- REPSTART (rule R142): starts a bus operation. -/
def execCmdRepstart (s : State) : Result :=
  .next (s.emit .repstart)

/-- SEND (rule R143): starts a bus operation. -/
def execCmdSend (b : Byte) (s : State) : Result :=
  .next (s.emit (.send b))

/-- ARM_ACK (rule R144): starts a bus operation; the bus hardware holds the ACK choice. -/
def execCmdArmAck (s : State) : Result :=
  .next (s.emit .armAck)

/-- ARM_NACK (rule R145): starts a bus operation; the bus hardware holds the NACK choice. -/
def execCmdArmNack (s : State) : Result :=
  .next (s.emit .armNack)

/-- STOP (rule R147): starts no bus operation; no event answers it. -/
def execCmdStop (s : State) : Result :=
  .next (s.emit .stop)

/-- Command code 0: never produced by the block (30_encoding.md rule R70); it has no effect in the spec. -/
def execCmdUnused0 (_ : State) : Result :=
  .refused .commandCodeUnused

/-- Command code 7: never produced by the block (30_encoding.md rule R70); it has no effect in the spec. -/
def execCmdUnused7 (_ : State) : Result :=
  .refused .commandCodeUnused

end Sys2Proof.Machine
end

