-- ==== Sys2Proof/Machine/Sequencer.lean ====
section
/-! DEFINITION. The sequencer: one rule per state (42_sequencer.md rules R111 to R119, R123), each on an event's raw status
and data byte, and each only where `ctx.state` and the event select it (rule R110). -/

namespace Sys2Proof.Machine

open Sys2Proof

/-- The bus hardware raises again an event that met `Idle` (entry U12, 70_reset_and_hazards.md rule R193), where the
platform's policy says so (log 17); by default it does not. -/
def State.raiseAgain (s : State) : State :=
  match s.cfg.spurious with
  | .notAdmitted => s
  | .admittedOnce => s
  | .admittedRepeating => s.setPending true

/-- Rule R111, `Idle` on any event: nothing is written. -/
def execStepIdle (status _data : Byte) (s : State) : Result :=
  onRow .idle status s (.next s.raiseAgain)

/-- Rule R112, `Start`. -/
def execStepStart (status _data : Byte) (s : State) : Result :=
  onRow .start status s <|
    if categorize s.cfg status = .startSent then
      .next ((s.emit (.send (slaW s.ctx.slaveAddress))).setSeq .sendSlaveWrite)
    else abort .startCondition status s

/-- Rule R113, `SendSlaveWrite`. -/
def execStepSendSlaveWrite (status _data : Byte) (s : State) : Result :=
  onRow .sendSlaveWrite status s <|
    if categorize s.cfg status = .slawAck then
      .next ((s.emit (.send s.ctx.dataRegister)).setSeq .writeRegisterAddress)
    else abort .address status s

/-- Rule R114, `WriteRegisterAddress`: the length test comes first (conflict C2). -/
def execStepWriteRegisterAddress (status _data : Byte) (s : State) : Result :=
  onRow .writeRegisterAddress status s <|
    if categorize s.cfg status = .dataTxAck then
      if s.ctx.bufferLength = 0 then finishOk s
      else
        match s.ctx.operation with
        | .writeRegister =>
          withByteAt (s.elementAddr 0) s fun b => .next (((s.emit (.send b)).setHandled 1).setSeq .writeData)
        | .readRegister => .next ((s.emit .repstart).setSeq .repeatedStart)
    else abort .registerWrite status s

/-- Rule R115, `WriteData`. -/
def execStepWriteData (status _data : Byte) (s : State) : Result :=
  onRow .writeData status s <|
    if categorize s.cfg status = .dataTxAck then
      if s.ctx.handledBytes < s.ctx.bufferLength then
        withByteAt (s.elementAddr s.ctx.handledBytes) s fun b =>
          .next ((s.emit (.send b)).setHandled s.handledNext)
      else finishOk s
    else abort .dataWrite status s

/-- Rule R116, `RepeatedStart`. -/
def execStepRepeatedStart (status _data : Byte) (s : State) : Result :=
  onRow .repeatedStart status s <|
    if categorize s.cfg status = .repstartSent then
      .next ((s.emit (.send (slaR s.ctx.slaveAddress))).setSeq .readData)
    else abort .repeatedStart status s

/-- Rule R117, `ReadData` on SLAR_ACK: arm for the next byte, store nothing (conflict C1). -/
def execStepReadSlarAck (status _data : Byte) (s : State) : Result :=
  onRow .readSlarAck status s <|
    .next (s.emit (arm s.ctx.handledBytes s.ctx.bufferLength))

/-- Rule R118, `ReadData` on a received byte: store it, then arm for the following byte or finish. -/
def execStepReadByte (status data : Byte) (s : State) : Result :=
  onRow .readByte status s <|
    andThen (memWrite (s.elementAddr s.ctx.handledBytes) data s) fun t =>
      let u := t.setHandled t.handledNext
      if u.ctx.handledBytes < u.ctx.bufferLength then
        .next (u.emit (arm u.ctx.handledBytes u.ctx.bufferLength))
      else finishOk u

/-- Rule R119, `ReadData` on any other category. -/
def execStepReadOther (status _data : Byte) (s : State) : Result :=
  onRow .readOther status s (abort .dataRead status s)

/-- Rule R123, `ReadData` under P_READ_LITERAL: the source's transition text word for word. -/
def execStepReadLiteral (status data : Byte) (s : State) : Result :=
  onRow .readLiteral status s <|
    if categorize s.cfg status = .slarAck ∨ categorize s.cfg status = .dataRxAck ∨
        categorize s.cfg status = .dataRxNack then
      andThen (memWrite (s.elementAddr s.ctx.handledBytes) data s) fun t =>
        let u := t.setHandled t.handledNext
        if u.ctx.handledBytes < u.ctx.bufferLength then .next (u.emit .armAck)
        else finishOk (u.emit .armNack)
    else abort .dataRead status s

/-- Code 7 of `ctx.state` (10_state.md rule R38): the event step is refused. -/
def execStepUnused (status _data : Byte) (s : State) : Result :=
  onRow .unused status s (.refused .stateEncodingUnused)

end Sys2Proof.Machine
end

