-- ==== Sys2Proof/Machine/Events.lean ====
section
/-! DEFINITION. The bus-event port: one meaning per event row (41_status_decoder.md rules R92 to R103). Each delivers its
event (43_bus_commands.md rule R146), which is the event step of 42_sequencer.md rule R110. -/

namespace Sys2Proof.Machine

open Sys2Proof

/-- The event step (rule R110): the rule that `ctx.state` and the event select. -/
def eventStep (status data : Byte) (s : State) : Result :=
  match rowOf s.cfg s.ctx.state status with
  | .idle => execStepIdle status data s
  | .start => execStepStart status data s
  | .sendSlaveWrite => execStepSendSlaveWrite status data s
  | .writeRegisterAddress => execStepWriteRegisterAddress status data s
  | .writeData => execStepWriteData status data s
  | .repeatedStart => execStepRepeatedStart status data s
  | .readSlarAck => execStepReadSlarAck status data s
  | .readByte => execStepReadByte status data s
  | .readOther => execStepReadOther status data s
  | .readLiteral => execStepReadLiteral status data s
  | .unused => execStepUnused status data s

/-- The environment may deliver an event: one is pending (rule R146), or spurious events are admitted (rule R152). -/
def State.mayDeliver (s : State) : Bool :=
  s.bus.pending || decide (s.cfg.spurious ≠ .notAdmitted)

/-- Delivery of one event (rule R146): one atomic step that clears `bus_pending` and runs the event step. -/
def deliverEvent (status data : Byte) (s : State) : Result :=
  if s.mayDeliver then eventStep status data s.enterEvent else .fault .noEventPending

/-- Rule R92. -/
def execEvStartSent (low : BitVec 3) (data : Byte) (s : State) : Result :=
  deliverEvent (statusOf 0x08 low) data s

/-- Rule R93. -/
def execEvRepstartSent (low : BitVec 3) (data : Byte) (s : State) : Result :=
  deliverEvent (statusOf 0x10 low) data s

/-- Rule R94. -/
def execEvSlawAck (low : BitVec 3) (data : Byte) (s : State) : Result :=
  deliverEvent (statusOf 0x18 low) data s

/-- Rule R95. -/
def execEvSlawNack (low : BitVec 3) (data : Byte) (s : State) : Result :=
  deliverEvent (statusOf 0x20 low) data s

/-- Rule R96. -/
def execEvDataTxAck (low : BitVec 3) (data : Byte) (s : State) : Result :=
  deliverEvent (statusOf 0x28 low) data s

/-- Rule R97. -/
def execEvDataTxNack (low : BitVec 3) (data : Byte) (s : State) : Result :=
  deliverEvent (statusOf 0x30 low) data s

/-- Rule R98. -/
def execEvArbLost (low : BitVec 3) (data : Byte) (s : State) : Result :=
  deliverEvent (statusOf 0x38 low) data s

/-- Rule R99. -/
def execEvSlarAck (low : BitVec 3) (data : Byte) (s : State) : Result :=
  deliverEvent (statusOf 0x40 low) data s

/-- Rule R100: SLA+R not acknowledged. -/
def execEvSlarNack (low : BitVec 3) (data : Byte) (s : State) : Result :=
  deliverEvent (statusOf 0x48 low) data s

/-- Rule R101: `data` is the received byte. -/
def execEvDataRxAck (low : BitVec 3) (data : Byte) (s : State) : Result :=
  deliverEvent (statusOf 0x50 low) data s

/-- Rule R102: `data` is the received byte. -/
def execEvDataRxNack (low : BitVec 3) (data : Byte) (s : State) : Result :=
  deliverEvent (statusOf 0x58 low) data s

/-- Rule R103: any other raw status. -/
def execEvOther (status data : Byte) (s : State) : Result :=
  deliverEvent status data s

end Sys2Proof.Machine
end

