-- ==== Sys2Proof/Machine/Request.lean ====
section
/-! DEFINITION. The request port: WRITE_REGISTER, READ_REGISTER, ERROR_CODE and NONE (40_request_api.md rules R80 to R88). -/

namespace Sys2Proof.Machine

open Sys2Proof

/-- The admission checks of rule R86, in its order; the first that fails gives the refusal. -/
def admission (cfg : Config) (sla reg len buf res : Nat) : Option Refusal :=
  if 0x80 ≤ sla then some .slaveAddressTooWide
  else if 0x100 ≤ reg ∨ 2 ^ cfg.lenBits ≤ len then some .operandTooWide
  else if !regionValid cfg buf len then some .regionNotValid
  else if !validAddr cfg res then some .regionNotValid
  else if inBuffer buf len res then some .resultSlotInBuffer
  else none

/-- The accepting request step (rules R81, R82, R88): populate the context, mark the result byte in progress, `Start`,
emit START, respond ACCEPTED, all in one step. -/
def accept (op : Operation) (sla reg len buf res : Nat) (s : State) : Result :=
  andThen (writeResult .inProgress (s.populate op sla reg len buf res)) fun t =>
    .next (((t.setSeq .start).emit .start).respond rspAcceptedByte)

/-- The request step of the two transaction requests (rules R80 to R83, R86; 10_state.md rule R38): refused in code 7,
admitted or refused in `Idle`, and BUSY with no effect in every other state. -/
def requestStep (op : Operation) (sla reg len buf res : Nat) (s : State) : Result :=
  if s.ctx.state = .unused7 then .refused .stateEncodingUnused
  else if s.busy then .next (s.respond rspBusyByte)
  else
    match admission s.cfg sla reg len buf res with
    | some r => .refused r
    | none => accept op sla reg len buf res s

/-- WRITE_REGISTER (rules R81, R83). -/
def execWriteRegister (sla reg len buf res : Nat) (s : State) : Result :=
  requestStep .writeRegister sla reg len buf res s

/-- READ_REGISTER (rules R82, R83). -/
def execReadRegister (sla reg len buf res : Nat) (s : State) : Result :=
  requestStep .readRegister sla reg len buf res s

/-- ERROR_CODE (rule R84): responds `last_status_code`, busy or idle, without effect; code 7 refuses the request step
(10_state.md rule R38, log 15). -/
def execErrorCode (s : State) : Result :=
  if s.ctx.state = .unused7 then .refused .stateEncodingUnused
  else .next (s.respond s.ctx.lastStatusCode)

/-- NONE (rule R85): no request; nothing changes (log 29). -/
def execNoRequest (s : State) : Result :=
  .next s

end Sys2Proof.Machine
end

