-- ==== Sys2Proof/Machine/Results.lean ====
section
/-! DEFINITION. The result codes, written to the byte at `ctx.result_slot` (30_encoding.md rule R68, 20_memory.md rule R45),
and the two responses of a transaction request (30_encoding.md rule R63). -/

namespace Sys2Proof.Machine

open Sys2Proof

/-- RES_OK, as `finish_ok` writes it (42_sequencer.md rule R121). -/
def execResOk (s : State) : Result :=
  writeResult .ok s

/-- RES_IN_PROGRESS, as an accepting request writes it (40_request_api.md rule R81). -/
def execResInProgress (s : State) : Result :=
  writeResult .inProgress s

/-- RES_START_CONDITION_ERROR (60_exceptions.md rule R162). -/
def execResStartConditionError (s : State) : Result :=
  writeResult (.error .startCondition) s

/-- RES_ADDRESS_ERROR (rule R163). -/
def execResAddressError (s : State) : Result :=
  writeResult (.error .address) s

/-- RES_REGISTER_WRITE_ERROR (rule R164). -/
def execResRegisterWriteError (s : State) : Result :=
  writeResult (.error .registerWrite) s

/-- RES_DATA_WRITE_ERROR (rule R165). -/
def execResDataWriteError (s : State) : Result :=
  writeResult (.error .dataWrite) s

/-- RES_REPEATED_START_ERROR (rule R166). -/
def execResRepeatedStartError (s : State) : Result :=
  writeResult (.error .repeatedStart) s

/-- RES_DATA_READ_ERROR (rule R167). -/
def execResDataReadError (s : State) : Result :=
  writeResult (.error .dataRead) s

/-- RSP ACCEPTED (30_encoding.md rule R63). -/
def execRspAccepted (s : State) : Result :=
  .next (s.respond rspAcceptedByte)

/-- RSP BUSY (rule R63). -/
def execRspBusy (s : State) : Result :=
  .next (s.respond rspBusyByte)

end Sys2Proof.Machine
end

