-- ==== Sys2Proof/Machine/Dispatch.lean ====
section
/-! DEFINITION. One arm per row of spec/opcode_table.json. -/

namespace Sys2Proof.Machine

open Sys2Proof

/-- The meaning of an instruction. -/
def exec (i : Instr) (s : State) : Host.Outcome State Fault Refusal :=
  match i with
  -- REQ
  | .writeRegister sla reg len buf res => Sys2Proof.Machine.execWriteRegister sla reg len buf res s
  | .readRegister sla reg len buf res => Sys2Proof.Machine.execReadRegister sla reg len buf res s
  | .errorCode => Sys2Proof.Machine.execErrorCode s
  | .noRequest => Sys2Proof.Machine.execNoRequest s
  -- EV
  | .evStartSent low data => Sys2Proof.Machine.execEvStartSent low data s
  | .evRepstartSent low data => Sys2Proof.Machine.execEvRepstartSent low data s
  | .evSlawAck low data => Sys2Proof.Machine.execEvSlawAck low data s
  | .evSlawNack low data => Sys2Proof.Machine.execEvSlawNack low data s
  | .evDataTxAck low data => Sys2Proof.Machine.execEvDataTxAck low data s
  | .evDataTxNack low data => Sys2Proof.Machine.execEvDataTxNack low data s
  | .evArbLost low data => Sys2Proof.Machine.execEvArbLost low data s
  | .evSlarAck low data => Sys2Proof.Machine.execEvSlarAck low data s
  | .evSlarNack low data => Sys2Proof.Machine.execEvSlarNack low data s
  | .evDataRxAck low data => Sys2Proof.Machine.execEvDataRxAck low data s
  | .evDataRxNack low data => Sys2Proof.Machine.execEvDataRxNack low data s
  | .evOther status data => Sys2Proof.Machine.execEvOther status data s
  -- STATE
  | .stepIdle status data => Sys2Proof.Machine.execStepIdle status data s
  | .stepStart status data => Sys2Proof.Machine.execStepStart status data s
  | .stepSendSlaveWrite status data => Sys2Proof.Machine.execStepSendSlaveWrite status data s
  | .stepWriteRegisterAddress status data => Sys2Proof.Machine.execStepWriteRegisterAddress status data s
  | .stepWriteData status data => Sys2Proof.Machine.execStepWriteData status data s
  | .stepRepeatedStart status data => Sys2Proof.Machine.execStepRepeatedStart status data s
  | .stepReadSlarAck status data => Sys2Proof.Machine.execStepReadSlarAck status data s
  | .stepReadByte status data => Sys2Proof.Machine.execStepReadByte status data s
  | .stepReadOther status data => Sys2Proof.Machine.execStepReadOther status data s
  | .stepReadLiteral status data => Sys2Proof.Machine.execStepReadLiteral status data s
  | .stepUnused status data => Sys2Proof.Machine.execStepUnused status data s
  -- CMD
  | .cmdStart => Sys2Proof.Machine.execCmdStart s
  | .cmdRepstart => Sys2Proof.Machine.execCmdRepstart s
  | .cmdSend b => Sys2Proof.Machine.execCmdSend b s
  | .cmdArmAck => Sys2Proof.Machine.execCmdArmAck s
  | .cmdArmNack => Sys2Proof.Machine.execCmdArmNack s
  | .cmdStop => Sys2Proof.Machine.execCmdStop s
  | .cmdUnused0 => Sys2Proof.Machine.execCmdUnused0 s
  | .cmdUnused7 => Sys2Proof.Machine.execCmdUnused7 s
  -- RES
  | .resOk => Sys2Proof.Machine.execResOk s
  | .resInProgress => Sys2Proof.Machine.execResInProgress s
  | .resStartConditionError => Sys2Proof.Machine.execResStartConditionError s
  | .resAddressError => Sys2Proof.Machine.execResAddressError s
  | .resRegisterWriteError => Sys2Proof.Machine.execResRegisterWriteError s
  | .resDataWriteError => Sys2Proof.Machine.execResDataWriteError s
  | .resRepeatedStartError => Sys2Proof.Machine.execResRepeatedStartError s
  | .resDataReadError => Sys2Proof.Machine.execResDataReadError s
  -- RSP
  | .rspAccepted => Sys2Proof.Machine.execRspAccepted s
  | .rspBusy => Sys2Proof.Machine.execRspBusy s

end Sys2Proof.Machine
end

