-- ==== Sys2Proof/Machine/Schedule.lean ====
section
/-! DEFINITION. One entry of the schedule taken as one atomic step (00_scope.md rule R8). -/

namespace Sys2Proof.Machine

open Sys2Proof

/-- A step begins with the rest of the schedule and no output yet (log 10). -/
def State.beginStep (s : State) (rest : List Act) : State :=
  { s with agenda := rest, cmds := [], rsp := none, seen := none }

/-- An item on an input port: the instruction its bits stand for. -/
def runItem (p : Port) (bits : Nat) (s : State) : Result :=
  match decode s.cfg p bits with
  | .ok i => exec i s
  | .error e => .refused (.undecodable e)

/-- The step of one entry of the schedule. -/
def runAct (a : Act) (s : State) : Result :=
  match a with
  | .req bits => runItem .req bits s
  | .ev bits => runItem .ev bits s
  | .wr sla reg buf len res => exec (.writeRegister sla reg len buf res) s
  | .rd sla reg buf len res => exec (.readRegister sla reg len buf res) s
  | .ldb addr => foregroundLoad addr s
  | .stb addr v => foregroundStore addr v s
  | .powerOn => .next (powerOnReset s)
  | .blockReset => .next (midReset s)

/-- The next entry of the schedule; with none, no agent moves and nothing changes (log 5). -/
def runSchedule (s : State) : Result :=
  match s.agenda with
  | [] => .next s
  | a :: rest => runAct a (s.beginStep rest)

/-- A word of the table put before the schedule, on the port `tablePort` gives; where it is an event, one is made pending so
that it can be delivered (43_bus_commands.md rule R146). -/
def placeWord (nbits w : Nat) (s : State) : State :=
  if tablePort nbits w = .req then { s with agenda := .req w :: s.agenda }
  else { s with agenda := .ev w :: s.agenda, bus := { s.bus with pending := true } }

end Sys2Proof.Machine
end

