-- ==== Sys2Proof/Machine/Step.lean ====
section
/-! DEFINITION. One step of the machine, and an instruction placed for it. -/

namespace Sys2Proof.Machine

open Sys2Proof

/-- One atomic step: the schedule's next entry (00_scope.md rule R8). -/
def step (s : State) : Host.Outcome State Fault Refusal :=
  runSchedule s

/-- The state with the table's word `w` of `nbits` bits as the next entry of the schedule (log 6, log 7). -/
def State.withFetchWord (s : State) (nbits w : Nat) : State :=
  placeWord nbits w s

end Sys2Proof.Machine
end

