-- ==== Sys2Proof/Laws/Decode.lean ====
section
/-! SUPPORT. The decoder and the encoder, function by function: fields of a sum of shifted parts, the width of each
encoding, and what each port's decoder reads from it. -/

namespace Sys2Proof

/-- Bits below a field, the field, and bits above it. -/
theorem field_of_sum {a b lo w : Nat} (above : Nat) (ha : a < 2 ^ lo) (hb : b < 2 ^ w) :
    field (a + 2 ^ lo * b + 2 ^ (lo + w) * above) lo w = b := by
  unfold field
  have e : a + 2 ^ lo * b + 2 ^ (lo + w) * above = a + 2 ^ lo * (b + 2 ^ w * above) := by
    rw [pow_add]
    ring
  rw [e, Nat.add_mul_div_left _ _ (by positivity), Nat.div_eq_of_lt ha, zero_add, Nat.add_mul_mod_self_left,
    Nat.mod_eq_of_lt hb]

/-- A field put above `lo` bits. -/
theorem add_shifted_lt {a b lo w : Nat} (ha : a < 2 ^ lo) (hb : b < 2 ^ w) : a + 2 ^ lo * b < 2 ^ (lo + w) := by
  have h : 2 ^ lo * (b + 1) ≤ 2 ^ lo * 2 ^ w := Nat.mul_le_mul_left _ hb
  rw [pow_add]
  rw [Nat.mul_add] at h
  omega

/-- A pattern of the format is the row its reading gives (30_encoding.md rules R60, R71). -/
theorem decode_of_lt (cfg : Config) (p : Port) (bits : Nat) (h : bits < 2 ^ portWidth cfg p) :
    decode cfg p bits = rowOfReading (readPort cfg p bits) := by
  unfold decode
  rw [if_neg (by omega)]

/-- A number below 4 fits REQ whatever the parameters. -/
theorem small_fits_req {cfg : Config} {n : Nat} (h : n < 4) : n < 2 ^ portWidth cfg .req := by
  have : 2 ^ 17 ≤ 2 ^ portWidth cfg .req := Nat.pow_le_pow_right (by norm_num) (by simp only [portWidth]; omega)
  omega

theorem encodeEv_lt (status data : Byte) : encodeEv status data < 2 ^ 16 := by
  have h1 := status.isLt
  have h2 := data.isLt
  simp [encodeEv]
  omega

theorem encodeState_lt (q : SeqState) (status data : Byte) : encodeState q status data < 2 ^ 19 := by
  have h1 := status.isLt
  have h2 := data.isLt
  have hq : codeOfState q < 8 := by cases q <;> decide
  simp [encodeState]
  omega

theorem encodeCmd_lt (c : Cmd) : encodeCmd c < 2 ^ 11 := by
  cases c with
  | send b =>
    have := b.isLt
    simp [encodeCmd]
    omega
  | _ => decide

theorem encodeReq_lt {cfg : Config} {op sla reg len buf res : Nat} (ho : op < 4)
    (hf : reqFits cfg sla reg len buf res = true) : encodeReq cfg op sla reg len buf res < 2 ^ portWidth cfg .req := by
  simp only [reqFits, Bool.and_eq_true, decide_eq_true_eq] at hf
  obtain ⟨⟨⟨⟨h1, h2⟩, h3⟩, h4⟩, h5⟩ := hf
  have l1 : op + 2 ^ 2 * sla < 2 ^ 9 := add_shifted_lt (lo := 2) (w := 7) ho h1
  have l2 : op + 2 ^ 2 * sla + 2 ^ 9 * reg < 2 ^ 17 := add_shifted_lt (lo := 9) (w := 8) l1 h2
  have l5 := add_shifted_lt (add_shifted_lt (add_shifted_lt (lo := 17) l2 h3) h4) h5
  rw [show portWidth cfg .req = 17 + cfg.lenBits + cfg.addrBits + cfg.addrBits by simp only [portWidth]; omega]
  exact l5

theorem decodeEv_encodeEv (status data : Byte) : decodeEv (encodeEv status data) = eventInstr status data := by
  have h1 := status.isLt
  have h2 := data.isLt
  have e1 : field (encodeEv status data) 0 8 = status.toNat := by simp [field, encodeEv]; omega
  have e2 : field (encodeEv status data) 8 8 = data.toNat := by simp [field, encodeEv]; omega
  simp [decodeEv, e1, e2]

theorem decodeState_encodeState (cfg : Config) (q : SeqState) (status data : Byte) :
    decodeState cfg (encodeState q status data) = stepInstr (rowOf cfg q status) status data := by
  have h1 := status.isLt
  have h2 := data.isLt
  have hq : codeOfState q < 8 := by cases q <;> decide
  have e0 : field (encodeState q status data) 0 3 = codeOfState q := by simp [field, encodeState]; omega
  have e1 : field (encodeState q status data) 3 8 = status.toNat := by simp [field, encodeState]; omega
  have e2 : field (encodeState q status data) 11 8 = data.toNat := by simp [field, encodeState]; omega
  have e3 : stateOfCode (codeOfState q) = q := by cases q <;> rfl
  simp [decodeState, e0, e1, e2, e3]

/-- An event row's code and low bits are read back (rule R65). -/
theorem statusOf_split : ∀ low : BitVec 3,
    ∀ code ∈ [(0x08 : Byte), 0x10, 0x18, 0x20, 0x28, 0x30, 0x38, 0x40, 0x48, 0x50, 0x58],
      (statusOf code low).extractLsb' 0 3 = low ∧ statusOf code low &&& 0xF8 = code := by
  decide

/-- A status is its code and its low bits. -/
theorem statusOf_join : ∀ status : Byte, statusOf (status &&& 0xF8) (status.extractLsb' 0 3) = status := by
  decide

end Sys2Proof
end

