-- ==== Sys2Proof/Machine/Conform.lean ====
section
/-! DEFINITION. The conforming bus `Conform(acks, rx)` (43_bus_commands.md rule R151), one environment among those the model
admits; no rule of the block depends on it. -/

namespace Sys2Proof.Machine

open Sys2Proof

/-- What a conforming bus has still to give: acknowledge bits, received bytes, and the data byte of every event that
carries none (any value, rule R149; log 28). -/
structure Conform where
  acks : List Bool
  rx : List Byte
  any : Byte
  deriving DecidableEq, Repr

/-- A sent byte is an address byte when the command before it was START or REPSTART (log 28). -/
def Bus.addressing (b : Bus) : Bool :=
  decide (b.before = some .start ∨ b.before = some .repstart)

/-- The status that answers `SEND(v)` (rule R151): address bytes are told apart by the direction bit. -/
def sendAnswer (addressing : Bool) (v : Byte) (ack : Bool) : Byte :=
  if addressing then
    if v.getLsbD 0 then (if ack then 0x40 else 0x48) else (if ack then 0x18 else 0x20)
  else if ack then 0x28 else 0x30

/-- The answer to the last command: status, data, and what is left to give (rule R151); none where nothing is to be
answered or the lists have run out. -/
def Conform.answer (c : Conform) (b : Bus) : Option (Byte × Byte × Conform) :=
  match b.last, c.acks, c.rx with
  | some .start, _, _ => some (0x08, c.any, c)
  | some .repstart, _, _ => some (0x10, c.any, c)
  | some (.send v), a :: as, _ => some (sendAnswer b.addressing v a, c.any, { c with acks := as })
  | some .armAck, _, d :: ds => some (0x50, d, { c with rx := ds })
  | some .armNack, _, d :: ds => some (0x58, d, { c with rx := ds })
  | some (.send _), [], _ => none
  | some .armAck, _, [] => none
  | some .armNack, _, [] => none
  | some .stop, _, _ => none
  | none, _, _ => none

/-- The state with one event as its whole schedule. -/
def State.offerEvent (s : State) (status data : Byte) : State :=
  { s with agenda := [.ev (encodeEv status data)] }

/-- `n` events of a conforming bus, each delivered in one step: the last state, the commands those steps emitted in order,
and what is left to give; none where the bus gives no answer or a step stops. -/
def conformRun : Nat → Conform → State → Option (State × List Cmd × Conform)
  | 0, c, s => some (s, [], c)
  | n + 1, c, s =>
    match c.answer s.bus with
    | none => none
    | some (status, data, c') =>
      match step (s.offerEvent status data) with
      | .next t =>
        match conformRun n c' t with
        | some (u, trace, c'') => some (u, t.cmds ++ trace, c'')
        | none => none
      | .fault _ => none
      | .refused _ => none

end Sys2Proof.Machine
end

