-- ==== Sys2Proof/Safety.lean ====
section
/-! DEFINITION. What statements call a good state: the spec's invariants (10_state.md rule R35), quiescence (00_scope.md
rule R17), the pairing of `bus_pending` with busy (42_sequencer.md rule R128), and a transaction's progress. -/

namespace Sys2Proof.Machine

open Sys2Proof

/-- No event is pending and the block is idle (00_scope.md rule R17). -/
def State.quiescent (s : State) : Prop :=
  s.ctx.state = .idle ∧ s.bus.pending = false

/-- The running transaction's memory is there: the result byte is valid and outside the buffer, every element is valid
(20_memory.md rules R44, R51, R52). -/
structure State.MemoryReady (s : State) : Prop where
  slot : validAddr s.cfg s.ctx.resultSlot = true
  region : regionValid s.cfg s.ctx.buffer s.ctx.bufferLength = true
  apart : s.inBuffer s.ctx.resultSlot = false

/-- The invariant of every run: 10_state.md rule R35 but for its clause on `bus_pending` (`Paired` has it), the registers'
widths (rule R21), and memory's canonical form. -/
structure Inv (s : State) : Prop where
  lenBits : 1 ≤ s.cfg.lenBits
  memWf : s.mem.wf = true
  used : s.ctx.state ≠ .unused7
  bufferWidth : s.ctx.buffer < 2 ^ s.cfg.addrBits
  lengthWidth : s.ctx.bufferLength < 2 ^ s.cfg.lenBits
  slotWidth : s.ctx.resultSlot < 2 ^ s.cfg.addrBits
  handled : s.ctx.handledBytes ≤ s.ctx.bufferLength
  early : s.ctx.state = .start ∨ s.ctx.state = .sendSlaveWrite ∨ s.ctx.state = .writeRegisterAddress ∨
    s.ctx.state = .repeatedStart → s.ctx.handledBytes = 0
  writing : s.ctx.state = .writeData → s.ctx.operation = .writeRegister ∧ 1 ≤ s.ctx.handledBytes
  reading : s.ctx.state = .repeatedStart ∨ s.ctx.state = .readData →
    s.ctx.operation = .readRegister ∧ 1 ≤ s.ctx.bufferLength
  receiving : s.ctx.state = .readData → s.ctx.handledBytes < s.ctx.bufferLength
  ready : s.busy = true → s.MemoryReady
  inProgress : s.busy = true → s.byteAt s.ctx.resultSlot = resultByte .inProgress

/-- The invariant of a run without a reset in mid-transaction, on a bus that never raises an event again: besides `Inv`, an
event is pending exactly while the block is busy (rules R35, R128). -/
structure Paired (s : State) : Prop where
  inv : Inv s
  pairing : s.bus.pending = s.busy
  noMidReset : ∀ a ∈ s.agenda, a ≠ .blockReset
  policy : s.cfg.spurious ≠ .admittedRepeating

/-- The bus's statuses are read by the default mask and table (00_scope.md rule R9), and ReadData by its default reading. -/
structure DefaultReading (s : State) : Prop where
  mask : s.cfg.statusMask = 0xF8
  table : s.cfg.statusTable = avrStatusTable
  literal : s.cfg.readLiteral = false

/-- Events still needed at most, on a bus that does not repeat SLAR_ACK in ReadData (42_sequencer.md rule R125, log 27). -/
def State.eventsLeft (s : State) : Nat :=
  let left := s.ctx.bufferLength - s.ctx.handledBytes
  let len := s.ctx.bufferLength
  match s.ctx.state, s.ctx.operation with
  | .idle, _ => 0
  | .start, .writeRegister => len + 3
  | .start, .readRegister => len + 5
  | .sendSlaveWrite, .writeRegister => len + 2
  | .sendSlaveWrite, .readRegister => len + 4
  | .writeRegisterAddress, .writeRegister => len + 1
  | .writeRegisterAddress, .readRegister => len + 3
  | .writeData, _ => left + 1
  | .repeatedStart, _ => len + 2
  | .readData, _ => left + 1
  | .unused7, _ => 0

end Sys2Proof.Machine
end

