-- ==== Sys2Proof/Laws/Memory.lean ====
section
/-! SUPPORT. Caller memory: every operation keeps the canonical form, a read after a write gives the byte written, and a
write leaves every other address alone. -/

namespace Sys2Proof.Machine

open Sys2Proof

theorem Memory.wf_cons (k : Nat) (v : Byte) (rest : Memory) :
    Memory.wf ((k, v) :: rest) = true ↔ v ≠ blankByte ∧ (∀ c ∈ rest, k < c.1) ∧ Memory.wf rest = true := by
  simp [Memory.wf, and_assoc]

/-- Below every listed address nothing is listed. -/
theorem Memory.read_below (m : Memory) (a : Nat) (h : ∀ c ∈ m, a < c.1) : m.read a = blankByte := by
  induction m with
  | nil => rfl
  | cons c rest ih =>
    obtain ⟨k, v⟩ := c
    have hk : a < k := h (k, v) (by simp)
    simp only [Memory.read]
    rw [if_neg (by omega)]
    exact ih fun c hc => h c (by simp [hc])

theorem Memory.read_cons_same (a : Nat) (v : Byte) (m : Memory) (h : ∀ c ∈ m, a < c.1) :
    (Memory.cons a v m).read a = v := by
  unfold Memory.cons
  split
  · rename_i hv
    rw [Memory.read_below m a h, hv]
  · simp [Memory.read]

theorem Memory.read_cons_other (a b : Nat) (v : Byte) (m : Memory) (h : b ≠ a) :
    (Memory.cons a v m).read b = m.read b := by
  unfold Memory.cons
  split
  · rfl
  · simp [Memory.read, Ne.symm h]

/-- A write leaves every other address alone (20_memory.md rule R43), in any list. -/
theorem Memory.read_write_other (m : Memory) (a b : Nat) (v : Byte) (h : b ≠ a) :
    (m.write a v).read b = m.read b := by
  induction m with
  | nil => exact Memory.read_cons_other a b v [] h
  | cons c rest ih =>
    obtain ⟨k, w⟩ := c
    simp only [Memory.write]
    split
    · exact Memory.read_cons_other a b v _ h
    · split
      · rename_i hk
        rw [Memory.read_cons_other a b v _ h]
        simp [Memory.read, ← hk, Ne.symm h]
      · simp only [Memory.read, ih]

/-- In canonical memory a read after a write gives the byte written. -/
theorem Memory.read_write_same (m : Memory) (a : Nat) (v : Byte) (h : m.wf = true) : (m.write a v).read a = v := by
  induction m with
  | nil => exact Memory.read_cons_same a v [] (by simp)
  | cons c rest ih =>
    obtain ⟨k, w⟩ := c
    obtain ⟨-, hlt, hrest⟩ := (Memory.wf_cons k w rest).1 h
    simp only [Memory.write]
    split
    · rename_i hak
      refine Memory.read_cons_same a v _ fun c hc => ?_
      rcases List.mem_cons.1 hc with rfl | hc
      · exact hak
      · exact lt_trans hak (hlt c hc)
    · split
      · rename_i hak
        exact Memory.read_cons_same a v _ fun c hc => hak ▸ hlt c hc
      · rename_i hak
        simp only [Memory.read]
        rw [if_neg (Ne.symm hak)]
        exact ih hrest

theorem Memory.mem_cons {a : Nat} {v : Byte} {m : Memory} {c : Host.Cell} (h : c ∈ Memory.cons a v m) :
    c = (a, v) ∨ c ∈ m := by
  unfold Memory.cons at h
  split at h
  · exact .inr h
  · exact List.mem_cons.1 h

/-- What a written memory lists was listed, or is the byte written. -/
theorem Memory.mem_write {m : Memory} {a : Nat} {v : Byte} {c : Host.Cell} (h : c ∈ m.write a v) :
    c = (a, v) ∨ c ∈ m := by
  induction m with
  | nil => exact Memory.mem_cons h
  | cons d rest ih =>
    obtain ⟨k, w⟩ := d
    simp only [Memory.write] at h
    split at h
    · exact Memory.mem_cons h
    · split at h
      · exact (Memory.mem_cons h).imp_right (List.mem_cons_of_mem _)
      · rcases List.mem_cons.1 h with rfl | h
        · exact .inr (List.mem_cons_self ..)
        · exact (ih h).imp_right (List.mem_cons_of_mem _)

theorem Memory.wf_cons_of {a : Nat} {v : Byte} {m : Memory} (hm : m.wf = true) (h : ∀ c ∈ m, a < c.1) :
    (Memory.cons a v m).wf = true := by
  unfold Memory.cons
  split
  · exact hm
  · rename_i hv
    exact (Memory.wf_cons a v m).2 ⟨hv, h, hm⟩

/-- A write keeps the canonical form. -/
theorem Memory.wf_write (m : Memory) (a : Nat) (v : Byte) (h : m.wf = true) : (m.write a v).wf = true := by
  induction m with
  | nil => exact Memory.wf_cons_of rfl (by simp)
  | cons c rest ih =>
    obtain ⟨k, w⟩ := c
    obtain ⟨hw, hlt, hrest⟩ := (Memory.wf_cons k w rest).1 h
    simp only [Memory.write]
    split
    · rename_i hak
      refine Memory.wf_cons_of h fun c hc => ?_
      rcases List.mem_cons.1 hc with rfl | hc
      · exact hak
      · exact lt_trans hak (hlt c hc)
    · split
      · rename_i hak
        exact Memory.wf_cons_of hrest fun c hc => hak ▸ hlt c hc
      · rename_i hlt' hne
        refine (Memory.wf_cons k w _).2 ⟨hw, fun c hc => ?_, ih hrest⟩
        rcases Memory.mem_write hc with rfl | hc
        · show k < a
          omega
        · exact hlt c hc

theorem State.reset_mem_wf : State.reset.mem.wf = true := rfl

end Sys2Proof.Machine
end

