-- ==== Sys2Proof/Laws/State.lean ====
section
/-! SUPPORT. One lemma per field and update of State, each true by rfl. -/

namespace Sys2Proof.Machine

open Sys2Proof

@[simp] theorem State.setSeq_cfg (s : State) (q : SeqState) : (s.setSeq q).cfg = s.cfg := rfl
@[simp] theorem State.setSeq_state (s : State) (q : SeqState) : (s.setSeq q).ctx.state = q := rfl
@[simp] theorem State.setSeq_operation (s : State) (q : SeqState) : (s.setSeq q).ctx.operation = s.ctx.operation := rfl
@[simp] theorem State.setSeq_slaveAddress (s : State) (q : SeqState) : (s.setSeq q).ctx.slaveAddress = s.ctx.slaveAddress := rfl
@[simp] theorem State.setSeq_dataRegister (s : State) (q : SeqState) : (s.setSeq q).ctx.dataRegister = s.ctx.dataRegister := rfl
@[simp] theorem State.setSeq_buffer (s : State) (q : SeqState) : (s.setSeq q).ctx.buffer = s.ctx.buffer := rfl
@[simp] theorem State.setSeq_bufferLength (s : State) (q : SeqState) : (s.setSeq q).ctx.bufferLength = s.ctx.bufferLength := rfl
@[simp] theorem State.setSeq_handledBytes (s : State) (q : SeqState) : (s.setSeq q).ctx.handledBytes = s.ctx.handledBytes := rfl
@[simp] theorem State.setSeq_resultSlot (s : State) (q : SeqState) : (s.setSeq q).ctx.resultSlot = s.ctx.resultSlot := rfl
@[simp] theorem State.setSeq_lastStatusCode (s : State) (q : SeqState) : (s.setSeq q).ctx.lastStatusCode = s.ctx.lastStatusCode := rfl
@[simp] theorem State.setSeq_bus (s : State) (q : SeqState) : (s.setSeq q).bus = s.bus := rfl
@[simp] theorem State.setSeq_mem (s : State) (q : SeqState) : (s.setSeq q).mem = s.mem := rfl
@[simp] theorem State.setSeq_agenda (s : State) (q : SeqState) : (s.setSeq q).agenda = s.agenda := rfl
@[simp] theorem State.setSeq_cmds (s : State) (q : SeqState) : (s.setSeq q).cmds = s.cmds := rfl
@[simp] theorem State.setSeq_rsp (s : State) (q : SeqState) : (s.setSeq q).rsp = s.rsp := rfl
@[simp] theorem State.setSeq_seen (s : State) (q : SeqState) : (s.setSeq q).seen = s.seen := rfl

@[simp] theorem State.setHandled_cfg (s : State) (n : Nat) : (s.setHandled n).cfg = s.cfg := rfl
@[simp] theorem State.setHandled_state (s : State) (n : Nat) : (s.setHandled n).ctx.state = s.ctx.state := rfl
@[simp] theorem State.setHandled_operation (s : State) (n : Nat) : (s.setHandled n).ctx.operation = s.ctx.operation := rfl
@[simp] theorem State.setHandled_slaveAddress (s : State) (n : Nat) : (s.setHandled n).ctx.slaveAddress = s.ctx.slaveAddress := rfl
@[simp] theorem State.setHandled_dataRegister (s : State) (n : Nat) : (s.setHandled n).ctx.dataRegister = s.ctx.dataRegister := rfl
@[simp] theorem State.setHandled_buffer (s : State) (n : Nat) : (s.setHandled n).ctx.buffer = s.ctx.buffer := rfl
@[simp] theorem State.setHandled_bufferLength (s : State) (n : Nat) : (s.setHandled n).ctx.bufferLength = s.ctx.bufferLength := rfl
@[simp] theorem State.setHandled_handledBytes (s : State) (n : Nat) : (s.setHandled n).ctx.handledBytes = n := rfl
@[simp] theorem State.setHandled_resultSlot (s : State) (n : Nat) : (s.setHandled n).ctx.resultSlot = s.ctx.resultSlot := rfl
@[simp] theorem State.setHandled_lastStatusCode (s : State) (n : Nat) : (s.setHandled n).ctx.lastStatusCode = s.ctx.lastStatusCode := rfl
@[simp] theorem State.setHandled_bus (s : State) (n : Nat) : (s.setHandled n).bus = s.bus := rfl
@[simp] theorem State.setHandled_mem (s : State) (n : Nat) : (s.setHandled n).mem = s.mem := rfl
@[simp] theorem State.setHandled_agenda (s : State) (n : Nat) : (s.setHandled n).agenda = s.agenda := rfl
@[simp] theorem State.setHandled_cmds (s : State) (n : Nat) : (s.setHandled n).cmds = s.cmds := rfl
@[simp] theorem State.setHandled_rsp (s : State) (n : Nat) : (s.setHandled n).rsp = s.rsp := rfl
@[simp] theorem State.setHandled_seen (s : State) (n : Nat) : (s.setHandled n).seen = s.seen := rfl

@[simp] theorem State.setLastStatus_cfg (s : State) (b : Byte) : (s.setLastStatus b).cfg = s.cfg := rfl
@[simp] theorem State.setLastStatus_state (s : State) (b : Byte) : (s.setLastStatus b).ctx.state = s.ctx.state := rfl
@[simp] theorem State.setLastStatus_operation (s : State) (b : Byte) : (s.setLastStatus b).ctx.operation = s.ctx.operation := rfl
@[simp] theorem State.setLastStatus_slaveAddress (s : State) (b : Byte) : (s.setLastStatus b).ctx.slaveAddress = s.ctx.slaveAddress := rfl
@[simp] theorem State.setLastStatus_dataRegister (s : State) (b : Byte) : (s.setLastStatus b).ctx.dataRegister = s.ctx.dataRegister := rfl
@[simp] theorem State.setLastStatus_buffer (s : State) (b : Byte) : (s.setLastStatus b).ctx.buffer = s.ctx.buffer := rfl
@[simp] theorem State.setLastStatus_bufferLength (s : State) (b : Byte) : (s.setLastStatus b).ctx.bufferLength = s.ctx.bufferLength := rfl
@[simp] theorem State.setLastStatus_handledBytes (s : State) (b : Byte) : (s.setLastStatus b).ctx.handledBytes = s.ctx.handledBytes := rfl
@[simp] theorem State.setLastStatus_resultSlot (s : State) (b : Byte) : (s.setLastStatus b).ctx.resultSlot = s.ctx.resultSlot := rfl
@[simp] theorem State.setLastStatus_lastStatusCode (s : State) (b : Byte) : (s.setLastStatus b).ctx.lastStatusCode = b := rfl
@[simp] theorem State.setLastStatus_bus (s : State) (b : Byte) : (s.setLastStatus b).bus = s.bus := rfl
@[simp] theorem State.setLastStatus_mem (s : State) (b : Byte) : (s.setLastStatus b).mem = s.mem := rfl
@[simp] theorem State.setLastStatus_agenda (s : State) (b : Byte) : (s.setLastStatus b).agenda = s.agenda := rfl
@[simp] theorem State.setLastStatus_cmds (s : State) (b : Byte) : (s.setLastStatus b).cmds = s.cmds := rfl
@[simp] theorem State.setLastStatus_rsp (s : State) (b : Byte) : (s.setLastStatus b).rsp = s.rsp := rfl
@[simp] theorem State.setLastStatus_seen (s : State) (b : Byte) : (s.setLastStatus b).seen = s.seen := rfl

@[simp] theorem State.setPending_cfg (s : State) (b : Bool) : (s.setPending b).cfg = s.cfg := rfl
@[simp] theorem State.setPending_ctx (s : State) (b : Bool) : (s.setPending b).ctx = s.ctx := rfl
@[simp] theorem State.setPending_pending (s : State) (b : Bool) : (s.setPending b).bus.pending = b := rfl
@[simp] theorem State.setPending_last (s : State) (b : Bool) : (s.setPending b).bus.last = s.bus.last := rfl
@[simp] theorem State.setPending_before (s : State) (b : Bool) : (s.setPending b).bus.before = s.bus.before := rfl
@[simp] theorem State.setPending_mem (s : State) (b : Bool) : (s.setPending b).mem = s.mem := rfl
@[simp] theorem State.setPending_agenda (s : State) (b : Bool) : (s.setPending b).agenda = s.agenda := rfl
@[simp] theorem State.setPending_cmds (s : State) (b : Bool) : (s.setPending b).cmds = s.cmds := rfl
@[simp] theorem State.setPending_rsp (s : State) (b : Bool) : (s.setPending b).rsp = s.rsp := rfl
@[simp] theorem State.setPending_seen (s : State) (b : Bool) : (s.setPending b).seen = s.seen := rfl

@[simp] theorem State.enterEvent_cfg (s : State) : (s.enterEvent).cfg = s.cfg := rfl
@[simp] theorem State.enterEvent_ctx (s : State) : (s.enterEvent).ctx = s.ctx := rfl
@[simp] theorem State.enterEvent_pending (s : State) : (s.enterEvent).bus.pending = false := rfl
@[simp] theorem State.enterEvent_last (s : State) : (s.enterEvent).bus.last = s.bus.last := rfl
@[simp] theorem State.enterEvent_before (s : State) : (s.enterEvent).bus.before = s.bus.before := rfl
@[simp] theorem State.enterEvent_mem (s : State) : (s.enterEvent).mem = s.mem := rfl
@[simp] theorem State.enterEvent_agenda (s : State) : (s.enterEvent).agenda = s.agenda := rfl
@[simp] theorem State.enterEvent_cmds (s : State) : (s.enterEvent).cmds = s.cmds := rfl
@[simp] theorem State.enterEvent_rsp (s : State) : (s.enterEvent).rsp = s.rsp := rfl
@[simp] theorem State.enterEvent_seen (s : State) : (s.enterEvent).seen = s.seen := rfl

@[simp] theorem State.respond_cfg (s : State) (b : Byte) : (s.respond b).cfg = s.cfg := rfl
@[simp] theorem State.respond_ctx (s : State) (b : Byte) : (s.respond b).ctx = s.ctx := rfl
@[simp] theorem State.respond_bus (s : State) (b : Byte) : (s.respond b).bus = s.bus := rfl
@[simp] theorem State.respond_mem (s : State) (b : Byte) : (s.respond b).mem = s.mem := rfl
@[simp] theorem State.respond_agenda (s : State) (b : Byte) : (s.respond b).agenda = s.agenda := rfl
@[simp] theorem State.respond_cmds (s : State) (b : Byte) : (s.respond b).cmds = s.cmds := rfl
@[simp] theorem State.respond_rsp (s : State) (b : Byte) : (s.respond b).rsp = some b := rfl
@[simp] theorem State.respond_seen (s : State) (b : Byte) : (s.respond b).seen = s.seen := rfl

@[simp] theorem State.populate_cfg (s : State) (op : Operation) (sla reg len buf res : Nat) : (s.populate op sla reg len buf res).cfg = s.cfg := rfl
@[simp] theorem State.populate_state (s : State) (op : Operation) (sla reg len buf res : Nat) : (s.populate op sla reg len buf res).ctx.state = s.ctx.state := rfl
@[simp] theorem State.populate_operation (s : State) (op : Operation) (sla reg len buf res : Nat) : (s.populate op sla reg len buf res).ctx.operation = op := rfl
@[simp] theorem State.populate_slaveAddress (s : State) (op : Operation) (sla reg len buf res : Nat) : (s.populate op sla reg len buf res).ctx.slaveAddress = BitVec.ofNat 7 sla := rfl
@[simp] theorem State.populate_dataRegister (s : State) (op : Operation) (sla reg len buf res : Nat) : (s.populate op sla reg len buf res).ctx.dataRegister = BitVec.ofNat 8 reg := rfl
@[simp] theorem State.populate_buffer (s : State) (op : Operation) (sla reg len buf res : Nat) : (s.populate op sla reg len buf res).ctx.buffer = buf := rfl
@[simp] theorem State.populate_bufferLength (s : State) (op : Operation) (sla reg len buf res : Nat) : (s.populate op sla reg len buf res).ctx.bufferLength = len := rfl
@[simp] theorem State.populate_handledBytes (s : State) (op : Operation) (sla reg len buf res : Nat) : (s.populate op sla reg len buf res).ctx.handledBytes = 0 := rfl
@[simp] theorem State.populate_resultSlot (s : State) (op : Operation) (sla reg len buf res : Nat) : (s.populate op sla reg len buf res).ctx.resultSlot = res := rfl
@[simp] theorem State.populate_lastStatusCode (s : State) (op : Operation) (sla reg len buf res : Nat) : (s.populate op sla reg len buf res).ctx.lastStatusCode = s.ctx.lastStatusCode := rfl
@[simp] theorem State.populate_bus (s : State) (op : Operation) (sla reg len buf res : Nat) : (s.populate op sla reg len buf res).bus = s.bus := rfl
@[simp] theorem State.populate_mem (s : State) (op : Operation) (sla reg len buf res : Nat) : (s.populate op sla reg len buf res).mem = s.mem := rfl
@[simp] theorem State.populate_agenda (s : State) (op : Operation) (sla reg len buf res : Nat) : (s.populate op sla reg len buf res).agenda = s.agenda := rfl
@[simp] theorem State.populate_cmds (s : State) (op : Operation) (sla reg len buf res : Nat) : (s.populate op sla reg len buf res).cmds = s.cmds := rfl
@[simp] theorem State.populate_rsp (s : State) (op : Operation) (sla reg len buf res : Nat) : (s.populate op sla reg len buf res).rsp = s.rsp := rfl
@[simp] theorem State.populate_seen (s : State) (op : Operation) (sla reg len buf res : Nat) : (s.populate op sla reg len buf res).seen = s.seen := rfl

@[simp] theorem State.emit_cfg (s : State) (c : Cmd) : (s.emit c).cfg = s.cfg := rfl
@[simp] theorem State.emit_ctx (s : State) (c : Cmd) : (s.emit c).ctx = s.ctx := rfl
@[simp] theorem State.emit_bus (s : State) (c : Cmd) : (s.emit c).bus = s.bus.receive c := rfl
@[simp] theorem State.emit_mem (s : State) (c : Cmd) : (s.emit c).mem = s.mem := rfl
@[simp] theorem State.emit_agenda (s : State) (c : Cmd) : (s.emit c).agenda = s.agenda := rfl
@[simp] theorem State.emit_cmds (s : State) (c : Cmd) : (s.emit c).cmds = s.cmds ++ [c] := rfl
@[simp] theorem State.emit_rsp (s : State) (c : Cmd) : (s.emit c).rsp = s.rsp := rfl
@[simp] theorem State.emit_seen (s : State) (c : Cmd) : (s.emit c).seen = s.seen := rfl

@[simp] theorem State.beginStep_cfg (s : State) (rest : List Act) : (s.beginStep rest).cfg = s.cfg := rfl
@[simp] theorem State.beginStep_ctx (s : State) (rest : List Act) : (s.beginStep rest).ctx = s.ctx := rfl
@[simp] theorem State.beginStep_bus (s : State) (rest : List Act) : (s.beginStep rest).bus = s.bus := rfl
@[simp] theorem State.beginStep_mem (s : State) (rest : List Act) : (s.beginStep rest).mem = s.mem := rfl
@[simp] theorem State.beginStep_agenda (s : State) (rest : List Act) : (s.beginStep rest).agenda = rest := rfl
@[simp] theorem State.beginStep_cmds (s : State) (rest : List Act) : (s.beginStep rest).cmds = [] := rfl
@[simp] theorem State.beginStep_rsp (s : State) (rest : List Act) : (s.beginStep rest).rsp = none := rfl
@[simp] theorem State.beginStep_seen (s : State) (rest : List Act) : (s.beginStep rest).seen = none := rfl

@[simp] theorem Bus.receive_pending (b : Bus) (c : Cmd) : (b.receive c).pending = startsOperation c := rfl
@[simp] theorem Bus.receive_last (b : Bus) (c : Cmd) : (b.receive c).last = some c := rfl
@[simp] theorem Bus.receive_before (b : Bus) (c : Cmd) : (b.receive c).before = b.last := rfl

@[simp] theorem State.setSeq_byteAt (s : State) (q : SeqState) (a : Nat) : (s.setSeq q).byteAt a = s.byteAt a := rfl
@[simp] theorem State.setHandled_byteAt (s : State) (n a : Nat) : (s.setHandled n).byteAt a = s.byteAt a := rfl
@[simp] theorem State.setLastStatus_byteAt (s : State) (b : Byte) (a : Nat) :
    (s.setLastStatus b).byteAt a = s.byteAt a := rfl
@[simp] theorem State.setPending_byteAt (s : State) (b : Bool) (a : Nat) : (s.setPending b).byteAt a = s.byteAt a := rfl
@[simp] theorem State.enterEvent_byteAt (s : State) (a : Nat) : s.enterEvent.byteAt a = s.byteAt a := rfl
@[simp] theorem State.respond_byteAt (s : State) (b : Byte) (a : Nat) : (s.respond b).byteAt a = s.byteAt a := rfl
@[simp] theorem State.populate_byteAt (s : State) (op : Operation) (sla reg len buf res a : Nat) :
    (s.populate op sla reg len buf res).byteAt a = s.byteAt a := rfl
@[simp] theorem State.emit_byteAt (s : State) (c : Cmd) (a : Nat) : (s.emit c).byteAt a = s.byteAt a := rfl
@[simp] theorem State.beginStep_byteAt (s : State) (rest : List Act) (a : Nat) :
    (s.beginStep rest).byteAt a = s.byteAt a := rfl

@[simp] theorem State.raiseAgain_ctx (s : State) : s.raiseAgain.ctx = s.ctx := by
  unfold State.raiseAgain; split <;> rfl
@[simp] theorem State.raiseAgain_mem (s : State) : s.raiseAgain.mem = s.mem := by
  unfold State.raiseAgain; split <;> rfl
@[simp] theorem State.raiseAgain_cfg (s : State) : s.raiseAgain.cfg = s.cfg := by
  unfold State.raiseAgain; split <;> rfl
@[simp] theorem State.raiseAgain_agenda (s : State) : s.raiseAgain.agenda = s.agenda := by
  unfold State.raiseAgain; split <;> rfl
@[simp] theorem State.raiseAgain_cmds (s : State) : s.raiseAgain.cmds = s.cmds := by
  unfold State.raiseAgain; split <;> rfl
@[simp] theorem State.raiseAgain_rsp (s : State) : s.raiseAgain.rsp = s.rsp := by
  unfold State.raiseAgain; split <;> rfl
@[simp] theorem State.raiseAgain_seen (s : State) : s.raiseAgain.seen = s.seen := by
  unfold State.raiseAgain; split <;> rfl

/-- Busy says no more than that the sequencer is not in `Idle` (10_state.md rule R31). -/
theorem State.busy_iff (s : State) : s.busy = true ↔ s.ctx.state ≠ .idle := by
  simp [State.busy]

theorem State.not_busy_iff (s : State) : s.busy = false ↔ s.ctx.state = .idle := by
  simp [State.busy]

end Sys2Proof.Machine
end

