-- ==== Sys2Proof/Laws/Ops.lean ====
section
/-! SUPPORT. For each shared operation, what it can do: if it answers a next state, then one of these cases holds. -/

namespace Sys2Proof.Machine

open Sys2Proof

@[simp] theorem andThen_next (s : State) (f : State → Result) : andThen (.next s) f = f s := rfl
@[simp] theorem andThen_fault (r : Fault) (f : State → Result) : andThen (.fault r) f = .fault r := rfl
@[simp] theorem andThen_refused (r : Refusal) (f : State → Result) : andThen (.refused r) f = .refused r := rfl

/-- A sequence answers next exactly where both parts do. -/
theorem andThen_eq_next {o : Result} {f : State → Result} {t : State} :
    andThen o f = .next t ↔ ∃ u, o = .next u ∧ f u = .next t := by
  cases o <;> simp [andThen]

/-- `MemWrite` at valid memory (20_memory.md rule R43). -/
theorem memWrite_valid {a : Nat} {v : Byte} {s : State} (h : validAddr s.cfg a = true) :
    memWrite a v s = .next { s with mem := s.mem.write a v } := by
  simp [memWrite, h]

/-- `MemWrite` elsewhere is stuck (rule R51). -/
theorem memWrite_invalid {a : Nat} {v : Byte} {s : State} (h : validAddr s.cfg a = false) :
    memWrite a v s = .fault .memoryNotValid := by
  simp [memWrite, h]

theorem memWrite_eq_next {a : Nat} {v : Byte} {s t : State} :
    memWrite a v s = .next t ↔ validAddr s.cfg a = true ∧ t = { s with mem := s.mem.write a v } := by
  by_cases h : validAddr s.cfg a = true
  · rw [memWrite_valid h]
    simp [h, eq_comm]
  · simp [memWrite, h]

theorem withByteAt_valid {a : Nat} {s : State} {f : Byte → Result} (h : validAddr s.cfg a = true) :
    withByteAt a s f = f (s.byteAt a) := by
  simp [withByteAt, h]

theorem withByteAt_eq_next {a : Nat} {s t : State} {f : Byte → Result} :
    withByteAt a s f = .next t ↔ validAddr s.cfg a = true ∧ f (s.byteAt a) = .next t := by
  unfold withByteAt
  split <;> simp_all

theorem writeResult_eq_next {r : ResultCode} {s t : State} :
    writeResult r s = .next t ↔
      validAddr s.cfg s.ctx.resultSlot = true ∧ t = { s with mem := s.mem.write s.ctx.resultSlot (resultByte r) } :=
  memWrite_eq_next

/-- All that `finish_ok` can do (42_sequencer.md rule R121). -/
theorem finishOk_eq_next {s t : State} :
    finishOk s = .next t ↔ validAddr s.cfg s.ctx.resultSlot = true ∧
      t = ({ s with mem := s.mem.write s.ctx.resultSlot (resultByte .ok) }.emit .stop).setSeq .idle := by
  unfold finishOk
  rw [andThen_eq_next]
  constructor
  · rintro ⟨u, hu, ht⟩
    obtain ⟨hv, rfl⟩ := writeResult_eq_next.1 hu
    exact ⟨hv, (Host.Outcome.next.inj ht).symm⟩
  · rintro ⟨hv, rfl⟩
    exact ⟨_, writeResult_eq_next.2 ⟨hv, rfl⟩, rfl⟩

/-- All that `abort` can do (42_sequencer.md rule R122). -/
theorem abort_eq_next {k : ErrorKind} {status : Byte} {s t : State} :
    abort k status s = .next t ↔ validAddr s.cfg s.ctx.resultSlot = true ∧
      t = ((({ s with mem := s.mem.write s.ctx.resultSlot (resultByte (.error k)) }.setLastStatus status).emit
        .stop).setSeq .idle) := by
  unfold abort
  rw [andThen_eq_next]
  constructor
  · rintro ⟨u, hu, ht⟩
    obtain ⟨hv, rfl⟩ := writeResult_eq_next.1 hu
    exact ⟨hv, (Host.Outcome.next.inj ht).symm⟩
  · rintro ⟨hv, rfl⟩
    exact ⟨_, writeResult_eq_next.2 ⟨hv, rfl⟩, rfl⟩

/-- A sequencer row runs exactly where it is selected (42_sequencer.md rule R110). -/
theorem onRow_eq_next {r : StepRow} {status : Byte} {s t : State} {body : Result} :
    onRow r status s body = .next t ↔ rowOf s.cfg s.ctx.state status = r ∧ body = .next t := by
  unfold onRow
  split <;> simp_all

theorem onRow_selected {r : StepRow} {status : Byte} {s : State} {body : Result}
    (h : rowOf s.cfg s.ctx.state status = r) : onRow r status s body = body := by
  simp [onRow, h]

/-- All that the accepting step can do (40_request_api.md rules R81, R82). -/
theorem accept_eq_next {op : Operation} {sla reg len buf res : Nat} {s t : State} :
    accept op sla reg len buf res s = .next t ↔ validAddr s.cfg res = true ∧
      t = (((({ s.populate op sla reg len buf res with
          mem := s.mem.write res (resultByte .inProgress) }).setSeq .start).emit .start).respond rspAcceptedByte) := by
  unfold accept
  rw [andThen_eq_next]
  constructor
  · rintro ⟨u, hu, ht⟩
    obtain ⟨hv, rfl⟩ := writeResult_eq_next.1 hu
    exact ⟨hv, (Host.Outcome.next.inj ht).symm⟩
  · rintro ⟨hv, rfl⟩
    exact ⟨_, writeResult_eq_next.2 ⟨hv, rfl⟩, rfl⟩

/-- No check of rule R86 fails exactly where all hold. -/
theorem admission_eq_none {cfg : Config} {sla reg len buf res : Nat} :
    admission cfg sla reg len buf res = none ↔ sla < 0x80 ∧ reg < 0x100 ∧ len < 2 ^ cfg.lenBits ∧
      regionValid cfg buf len = true ∧ validAddr cfg res = true ∧ inBuffer buf len res = false := by
  unfold admission
  split_ifs <;> simp_all
  all_goals omega

/-- All that a request step can do (40_request_api.md rules R81 to R83). -/
theorem requestStep_eq_next {op : Operation} {sla reg len buf res : Nat} {s t : State} :
    requestStep op sla reg len buf res s = .next t ↔
      (s.ctx.state ≠ .unused7 ∧ s.busy = true ∧ t = s.respond rspBusyByte) ∨
      (s.ctx.state = .idle ∧ admission s.cfg sla reg len buf res = none ∧
        accept op sla reg len buf res s = .next t) := by
  unfold requestStep
  by_cases h7 : s.ctx.state = .unused7
  · simp [h7]
  · by_cases hb : s.busy = true
    · simp [h7, hb, (State.busy_iff s).1 hb, eq_comm]
    · have hi : s.ctx.state = .idle := by simpa [State.busy] using hb
      simp only [hb, hi]
      cases hadm : admission s.cfg sla reg len buf res <;> simp

/-- All that the delivery of an event can do (43_bus_commands.md rule R146). -/
theorem deliverEvent_eq_next {status data : Byte} {s t : State} :
    deliverEvent status data s = .next t ↔ s.mayDeliver = true ∧ eventStep status data s.enterEvent = .next t := by
  unfold deliverEvent
  split <;> simp_all

theorem foregroundLoad_eq_next {a : Nat} {s t : State} :
    foregroundLoad a s = .next t ↔ ¬(s.busy = true ∧ s.inBuffer a = true) ∧ validAddr s.cfg a = true ∧
      t = { s with seen := some (s.byteAt a) } := by
  unfold foregroundLoad
  split
  · simp_all
  · rename_i h
    rw [withByteAt_eq_next, Host.Outcome.next.injEq, eq_comm (b := t)]
    simp_all

theorem foregroundStore_eq_next {a : Nat} {v : Byte} {s t : State} :
    foregroundStore a v s = .next t ↔ ¬(s.busy = true ∧ s.inBuffer a = true) ∧
      ¬(s.busy = true ∧ a = s.ctx.resultSlot) ∧ validAddr s.cfg a = true ∧
      t = { s with mem := s.mem.write a v } := by
  unfold foregroundStore
  split
  · simp_all
  · split
    · simp_all
    · rw [memWrite_eq_next]
      simp_all

/-- All that a load of the foreground can do (70_reset_and_hazards.md rule R186, 20_memory.md rule R51). -/
theorem foregroundLoad_cases (a : Nat) (s : State) :
    (s.busy = true ∧ s.inBuffer a = true ∧ foregroundLoad a s = .fault .bufferAccessWhileBusy) ∨
    (validAddr s.cfg a = false ∧ foregroundLoad a s = .fault .memoryNotValid) ∨
    foregroundLoad a s = .next { s with seen := some (s.byteAt a) } := by
  unfold foregroundLoad
  split
  · simp_all
  · cases hv : validAddr s.cfg a <;> simp [withByteAt, hv]

/-- All that a store of the foreground can do (rules R186, R187, R51). -/
theorem foregroundStore_cases (a : Nat) (v : Byte) (s : State) :
    (s.busy = true ∧ s.inBuffer a = true ∧ foregroundStore a v s = .fault .bufferAccessWhileBusy) ∨
    (s.busy = true ∧ a = s.ctx.resultSlot ∧ foregroundStore a v s = .fault .resultSlotWriteWhileBusy) ∨
    (validAddr s.cfg a = false ∧ foregroundStore a v s = .fault .memoryNotValid) ∨
    foregroundStore a v s = .next { s with mem := s.mem.write a v } := by
  unfold foregroundStore
  split
  · simp_all
  · split
    · simp_all
    · cases hv : validAddr s.cfg a <;> simp [memWrite, hv]

/-- The event step runs the table's STATE row that is selected (42_sequencer.md rule R110). -/
theorem eventStep_eq_exec (status data : Byte) (s : State) :
    eventStep status data s = exec (stepInstr (rowOf s.cfg s.ctx.state status) status data) s := by
  unfold eventStep
  split <;> rename_i h <;> rw [h] <;> rfl

/-- With a schedule, a step is the step of its first entry. -/
theorem step_cons {s : State} {a : Act} {rest : List Act} (h : s.agenda = a :: rest) :
    step s = runAct a (s.beginStep rest) := by
  simp [step, runSchedule, h]

/-- With none, nothing changes (log 5). -/
theorem step_nil {s : State} (h : s.agenda = []) : step s = .next s := by
  simp [step, runSchedule, h]

theorem runItem_ok {p : Port} {bits : Nat} {s : State} {i : Instr} (h : decode s.cfg p bits = .ok i) :
    runItem p bits s = exec i s := by
  simp [runItem, h]

end Sys2Proof.Machine
end

