-- ==== Sys2Proof/Laws/Events.lean ====
section
/-! SUPPORT. All that an event step can do (42_sequencer.md rules R111 to R119, R123), said once: if it answers a next state,
that state is one of `EventOutcome`. -/

namespace Sys2Proof.Machine

open Sys2Proof

/-- Memory after a byte written at the result slot. -/
def State.withResult (s : State) (b : Byte) : State :=
  { s with mem := s.mem.write s.ctx.resultSlot b }

/-- Memory and count after a received byte is stored. -/
def State.withElement (s : State) (d : Byte) : State :=
  State.setHandled { s with mem := s.mem.write (s.elementAddr s.ctx.handledBytes) d } s.handledNext

/-- The state after `finish_ok`. -/
def State.finished (s : State) : State :=
  ((s.withResult (resultByte .ok)).emit .stop).setSeq .idle

/-- The state after `abort(k)`. -/
def State.aborted (s : State) (k : ErrorKind) (status : Byte) : State :=
  (((s.withResult (resultByte (.error k))).setLastStatus status).emit .stop).setSeq .idle

theorem finishOk_next_iff {s t : State} :
    finishOk s = .next t ↔ validAddr s.cfg s.ctx.resultSlot = true ∧ t = s.finished :=
  finishOk_eq_next

theorem abort_next_iff {k : ErrorKind} {status : Byte} {s t : State} :
    abort k status s = .next t ↔ validAddr s.cfg s.ctx.resultSlot = true ∧ t = s.aborted k status :=
  abort_eq_next

/-- The next states of an event step of status `status` and data `data` from `s`, each with what selects it. -/
inductive EventOutcome (status data : Byte) (s : State) : State → Prop
  | ignored (hq : s.ctx.state = .idle) : EventOutcome status data s s.raiseAgain
  | aborted (k : ErrorKind) (hq : s.ctx.state ≠ .idle) (hu : s.ctx.state ≠ .unused7)
      (hs : ¬(s.ctx.state = .readData ∧ (categorize s.cfg status = .dataRxAck ∨ categorize s.cfg status = .dataRxNack ∨
        categorize s.cfg status = .slarAck)))
      (hv : validAddr s.cfg s.ctx.resultSlot = true) : EventOutcome status data s (s.aborted k status)
  | started (hq : s.ctx.state = .start) :
      EventOutcome status data s ((s.emit (.send (slaW s.ctx.slaveAddress))).setSeq .sendSlaveWrite)
  | addressed (hq : s.ctx.state = .sendSlaveWrite) :
      EventOutcome status data s ((s.emit (.send s.ctx.dataRegister)).setSeq .writeRegisterAddress)
  | registerDone (hq : s.ctx.state = .writeRegisterAddress) (hl : s.ctx.bufferLength = 0)
      (hv : validAddr s.cfg s.ctx.resultSlot = true) : EventOutcome status data s s.finished
  | firstByte (hq : s.ctx.state = .writeRegisterAddress) (hl : s.ctx.bufferLength ≠ 0)
      (ho : s.ctx.operation = .writeRegister) (hv : validAddr s.cfg (s.elementAddr 0) = true) :
      EventOutcome status data s
        (((s.emit (.send (s.byteAt (s.elementAddr 0)))).setHandled 1).setSeq .writeData)
  | restarting (hq : s.ctx.state = .writeRegisterAddress) (hl : s.ctx.bufferLength ≠ 0)
      (ho : s.ctx.operation = .readRegister) :
      EventOutcome status data s ((s.emit .repstart).setSeq .repeatedStart)
  | nextByte (hq : s.ctx.state = .writeData) (hl : s.ctx.handledBytes < s.ctx.bufferLength)
      (hv : validAddr s.cfg (s.elementAddr s.ctx.handledBytes) = true) :
      EventOutcome status data s
        ((s.emit (.send (s.byteAt (s.elementAddr s.ctx.handledBytes)))).setHandled s.handledNext)
  | writeDone (hq : s.ctx.state = .writeData) (hl : ¬s.ctx.handledBytes < s.ctx.bufferLength)
      (hv : validAddr s.cfg s.ctx.resultSlot = true) : EventOutcome status data s s.finished
  | restarted (hq : s.ctx.state = .repeatedStart) :
      EventOutcome status data s ((s.emit (.send (slaR s.ctx.slaveAddress))).setSeq .readData)
  | armed (hq : s.ctx.state = .readData) (hr : s.cfg.readLiteral = false) (hc : categorize s.cfg status = .slarAck) :
      EventOutcome status data s (s.emit (arm s.ctx.handledBytes s.ctx.bufferLength))
  | stored (hq : s.ctx.state = .readData) (hr : s.cfg.readLiteral = false)
      (hc : categorize s.cfg status = .dataRxAck ∨ categorize s.cfg status = .dataRxNack)
      (hv : validAddr s.cfg (s.elementAddr s.ctx.handledBytes) = true) (hl : s.handledNext < s.ctx.bufferLength) :
      EventOutcome status data s ((s.withElement data).emit (arm s.handledNext s.ctx.bufferLength))
  | storedLast (hq : s.ctx.state = .readData) (hr : s.cfg.readLiteral = false)
      (hc : categorize s.cfg status = .dataRxAck ∨ categorize s.cfg status = .dataRxNack)
      (hv : validAddr s.cfg (s.elementAddr s.ctx.handledBytes) = true) (hl : ¬s.handledNext < s.ctx.bufferLength)
      (hw : validAddr s.cfg s.ctx.resultSlot = true) : EventOutcome status data s (s.withElement data).finished
  | literal (hq : s.ctx.state = .readData) (hr : s.cfg.readLiteral = true)
      (hc : categorize s.cfg status = .slarAck ∨ categorize s.cfg status = .dataRxAck ∨
        categorize s.cfg status = .dataRxNack)
      (hv : validAddr s.cfg (s.elementAddr s.ctx.handledBytes) = true) (hl : s.handledNext < s.ctx.bufferLength) :
      EventOutcome status data s ((s.withElement data).emit .armAck)
  | literalLast (hq : s.ctx.state = .readData) (hr : s.cfg.readLiteral = true)
      (hc : categorize s.cfg status = .slarAck ∨ categorize s.cfg status = .dataRxAck ∨
        categorize s.cfg status = .dataRxNack)
      (hv : validAddr s.cfg (s.elementAddr s.ctx.handledBytes) = true) (hl : ¬s.handledNext < s.ctx.bufferLength)
      (hw : validAddr s.cfg s.ctx.resultSlot = true) :
      EventOutcome status data s ((s.withElement data).emit .armNack).finished

/-- The event step, inverted. -/
theorem eventStep_next {status data : Byte} {s t : State} (h : eventStep status data s = .next t) :
    EventOutcome status data s t := by
  unfold eventStep at h
  cases hq : s.ctx.state with
  | idle =>
    simp only [hq, rowOf, execStepIdle, onRow, if_true] at h
    exact Host.Outcome.next.inj h ▸ .ignored hq
  | start =>
    simp only [hq, rowOf, execStepStart, onRow, if_true] at h
    split at h
    · exact Host.Outcome.next.inj h ▸ .started hq
    · obtain ⟨hv, rfl⟩ := abort_next_iff.1 h
      exact .aborted _ (by simp [hq]) (by simp [hq]) (by simp [hq]) hv
  | sendSlaveWrite =>
    simp only [hq, rowOf, execStepSendSlaveWrite, onRow, if_true] at h
    split at h
    · exact Host.Outcome.next.inj h ▸ .addressed hq
    · obtain ⟨hv, rfl⟩ := abort_next_iff.1 h
      exact .aborted _ (by simp [hq]) (by simp [hq]) (by simp [hq]) hv
  | writeRegisterAddress =>
    simp only [hq, rowOf, execStepWriteRegisterAddress, onRow, if_true] at h
    split at h
    · split at h
      · rename_i hl
        obtain ⟨hv, rfl⟩ := finishOk_next_iff.1 h
        exact .registerDone hq hl hv
      · rename_i hl
        split at h
        · rename_i ho
          obtain ⟨hv, hn⟩ := withByteAt_eq_next.1 h
          exact Host.Outcome.next.inj hn ▸ .firstByte hq hl ho hv
        · rename_i ho
          exact Host.Outcome.next.inj h ▸ .restarting hq hl ho
    · obtain ⟨hv, rfl⟩ := abort_next_iff.1 h
      exact .aborted _ (by simp [hq]) (by simp [hq]) (by simp [hq]) hv
  | writeData =>
    simp only [hq, rowOf, execStepWriteData, onRow, if_true] at h
    split at h
    · split at h
      · rename_i hl
        obtain ⟨hv, hn⟩ := withByteAt_eq_next.1 h
        exact Host.Outcome.next.inj hn ▸ .nextByte hq hl hv
      · rename_i hl
        obtain ⟨hv, rfl⟩ := finishOk_next_iff.1 h
        exact .writeDone hq hl hv
    · obtain ⟨hv, rfl⟩ := abort_next_iff.1 h
      exact .aborted _ (by simp [hq]) (by simp [hq]) (by simp [hq]) hv
  | repeatedStart =>
    simp only [hq, rowOf, execStepRepeatedStart, onRow, if_true] at h
    split at h
    · exact Host.Outcome.next.inj h ▸ .restarted hq
    · obtain ⟨hv, rfl⟩ := abort_next_iff.1 h
      exact .aborted _ (by simp [hq]) (by simp [hq]) (by simp [hq]) hv
  | readData =>
    rw [hq] at h
    split at h <;> rename_i hrow
    case h_7 =>
      simp only [rowOf] at hrow
      split_ifs at hrow with h1 h2 h3
      obtain ⟨-, hn⟩ := onRow_eq_next.1 h
      exact Host.Outcome.next.inj hn ▸ .armed hq (by simpa using h1) h2
    case h_8 =>
      simp only [rowOf] at hrow
      split_ifs at hrow with h1 h2 h3
      obtain ⟨-, hn⟩ := onRow_eq_next.1 h
      obtain ⟨u, hu, hf⟩ := andThen_eq_next.1 hn
      obtain ⟨hv, rfl⟩ := memWrite_eq_next.1 hu
      simp only at hf
      split at hf
      · rename_i hl
        exact Host.Outcome.next.inj hf ▸ .stored hq (by simpa using h1) h3 hv hl
      · rename_i hl
        obtain ⟨hw, rfl⟩ := finishOk_next_iff.1 hf
        exact .storedLast hq (by simpa using h1) h3 hv hl hw
    case h_9 =>
      simp only [rowOf] at hrow
      split_ifs at hrow with h1 h2 h3
      obtain ⟨-, hn⟩ := onRow_eq_next.1 h
      obtain ⟨hv, rfl⟩ := abort_next_iff.1 hn
      exact .aborted _ (by simp [hq]) (by simp [hq]) (by simp_all) hv
    case h_10 =>
      simp only [rowOf] at hrow
      split_ifs at hrow with h1 h2 h3
      obtain ⟨-, hn⟩ := onRow_eq_next.1 h
      split at hn
      · rename_i hc
        obtain ⟨u, hu, hf⟩ := andThen_eq_next.1 hn
        obtain ⟨hv, rfl⟩ := memWrite_eq_next.1 hu
        simp only at hf
        split at hf
        · rename_i hl
          exact Host.Outcome.next.inj hf ▸ .literal hq h1 hc hv hl
        · rename_i hl
          obtain ⟨hw, rfl⟩ := finishOk_next_iff.1 hf
          exact .literalLast hq h1 hc hv hl hw
      · rename_i hc
        obtain ⟨hv, rfl⟩ := abort_next_iff.1 hn
        exact .aborted _ (by simp [hq]) (by simp [hq]) (by tauto) hv
    all_goals
      simp only [rowOf] at hrow
      split_ifs at hrow
  | unused7 =>
    simp only [hq, rowOf, execStepUnused, onRow, if_true] at h
    cases h

end Sys2Proof.Machine
end

