-- ==== Sys2Proof/Laws/Exec.lean ====
section
/-! SUPPORT. What a request step, an event step and a schedule entry can do, with the conditions under which each goes on. -/

namespace Sys2Proof.Machine

open Sys2Proof

/-- The count does not wrap where the length fits its register (42_sequencer.md rule R124). -/
theorem State.handledNext_of_lt {s : State} (h : s.ctx.handledBytes < s.ctx.bufferLength)
    (hl : s.ctx.bufferLength < 2 ^ s.cfg.lenBits) : s.handledNext = s.ctx.handledBytes + 1 :=
  Nat.mod_eq_of_lt (by omega)

/-- Every element of a valid region is valid (20_memory.md rule R44). -/
theorem validAddr_of_regionValid {cfg : Config} {buf len i : Nat} (h : regionValid cfg buf len = true) (hi : i < len) :
    validAddr cfg (buf + i) = true := by
  simp only [regionValid, Bool.and_eq_true, List.all_eq_true, List.mem_range] at h
  exact h.2 i hi

/-- An event of any status and data, as an instruction: the delivery of that event. -/
theorem exec_eventInstr (status data : Byte) (s : State) :
    exec (eventInstr status data) s = deliverEvent status data s := by
  have back : ∀ code : Byte, status &&& 0xF8 = code → statusOf code (status.extractLsb' 0 3) = status := by
    rintro code rfl
    exact statusOf_join status
  unfold eventInstr
  simp only
  repeat' first | (split; (rename_i hc; show deliverEvent _ _ _ = _; rw [back _ hc])) | split
  rfl

/-- A sequencer row that answers a next state is the event step (42_sequencer.md rule R110). -/
theorem exec_stepInstr_next {r : StepRow} {status data : Byte} {s t : State}
    (h : exec (stepInstr r status data) s = .next t) : eventStep status data s = .next t := by
  have hr : rowOf s.cfg s.ctx.state status = r := by
    cases r <;> exact (onRow_eq_next.1 h).1
  rw [eventStep_eq_exec, hr]
  exact h

/-- What no event step changes. -/
theorem EventOutcome.keeps {status data : Byte} {s t : State} (h : EventOutcome status data s t) :
    t.cfg = s.cfg ∧ t.agenda = s.agenda ∧ t.seen = s.seen ∧ t.rsp = s.rsp ∧ t.ctx.operation = s.ctx.operation ∧
      t.ctx.slaveAddress = s.ctx.slaveAddress ∧ t.ctx.dataRegister = s.ctx.dataRegister ∧
      t.ctx.buffer = s.ctx.buffer ∧ t.ctx.bufferLength = s.ctx.bufferLength ∧ t.ctx.resultSlot = s.ctx.resultSlot := by
  cases h <;> simp [State.aborted, State.finished, State.withResult, State.withElement]

/-- A request step outside code 7 goes on, or is refused in `Idle` by rule R86. -/
theorem requestStep_total {op : Operation} {sla reg len buf res : Nat} {s : State} (h : s.ctx.state ≠ .unused7) :
    (∃ t, requestStep op sla reg len buf res s = .next t) ∨
    (s.ctx.state = .idle ∧ ∃ r, requestStep op sla reg len buf res s = .refused r ∧
      (r = .slaveAddressTooWide ∨ r = .operandTooWide ∨ r = .regionNotValid ∨ r = .resultSlotInBuffer)) := by
  unfold requestStep
  rw [if_neg h]
  by_cases hb : s.busy = true
  · rw [if_pos hb]
    exact .inl ⟨_, rfl⟩
  · rw [if_neg hb]
    cases hadm : admission s.cfg sla reg len buf res with
    | none => exact .inl ⟨_, accept_eq_next.2 ⟨(admission_eq_none.1 hadm).2.2.2.2.1, rfl⟩⟩
    | some r =>
      refine .inr ⟨by simpa [State.busy] using hb, r, rfl, ?_⟩
      unfold admission at hadm
      split_ifs at hadm <;> cases hadm <;> simp

/-- An event step outside code 7 goes on where the transaction's memory is there (42_sequencer.md rule R129). -/
theorem eventStep_total (s : State) (status data : Byte) (hu : s.ctx.state ≠ .unused7)
    (hm : s.busy = true → s.MemoryReady) (hr : s.ctx.state = .readData → s.ctx.handledBytes < s.ctx.bufferLength) :
    ∃ t, eventStep status data s = .next t := by
  by_cases hb : s.busy = true
  swap
  · have hq : s.ctx.state = .idle := by simpa [State.busy] using hb
    exact ⟨s.raiseAgain, by simp [eventStep, hq, rowOf, execStepIdle, onRow]⟩
  obtain ⟨h1, h2, -⟩ := hm hb
  have ab : ∀ k, abort k status s = .next (s.aborted k status) := fun k => abort_next_iff.2 ⟨h1, rfl⟩
  have fi : finishOk s = .next s.finished := finishOk_next_iff.2 ⟨h1, rfl⟩
  have fu : ∀ u : State, u.cfg = s.cfg → u.ctx.resultSlot = s.ctx.resultSlot → ∃ t, finishOk u = .next t :=
    fun u hc hs => ⟨_, finishOk_next_iff.2 ⟨by rw [hc, hs]; exact h1, rfl⟩⟩
  have wb : ∀ i f, i < s.ctx.bufferLength → withByteAt (s.elementAddr i) s f = f (s.byteAt (s.elementAddr i)) :=
    fun i f hi => withByteAt_valid (validAddr_of_regionValid h2 hi)
  unfold eventStep
  cases hq : s.ctx.state with
  | idle => exact ⟨_, by simp [rowOf, execStepIdle, onRow, hq]; rfl⟩
  | unused7 => exact absurd hq hu
  | start =>
    simp only [rowOf, execStepStart, onRow, hq, if_true]
    split
    · exact ⟨_, rfl⟩
    · exact ⟨_, ab _⟩
  | sendSlaveWrite =>
    simp only [rowOf, execStepSendSlaveWrite, onRow, hq, if_true]
    split
    · exact ⟨_, rfl⟩
    · exact ⟨_, ab _⟩
  | writeRegisterAddress =>
    simp only [rowOf, execStepWriteRegisterAddress, onRow, hq, if_true]
    split
    · split
      · exact ⟨_, fi⟩
      · split
        · rw [wb 0 _ (by omega)]
          exact ⟨_, rfl⟩
        · exact ⟨_, rfl⟩
    · exact ⟨_, ab _⟩
  | writeData =>
    simp only [rowOf, execStepWriteData, onRow, hq, if_true]
    split
    · split
      · rename_i hl
        rw [wb _ _ hl]
        exact ⟨_, rfl⟩
      · exact ⟨_, fi⟩
    · exact ⟨_, ab _⟩
  | repeatedStart =>
    simp only [rowOf, execStepRepeatedStart, onRow, hq, if_true]
    split
    · exact ⟨_, rfl⟩
    · exact ⟨_, ab _⟩
  | readData =>
    have hv := validAddr_of_regionValid h2 (hr hq)
    have hrow : rowOf s.cfg s.ctx.state status = rowOf s.cfg .readData status := by rw [hq]
    split <;> rename_i h <;> rw [← hrow] at h
    case h_7 => exact ⟨_, onRow_eq_next.2 ⟨h, rfl⟩⟩
    case h_8 =>
      simp only [execStepReadByte]
      rw [onRow_selected h, memWrite_valid (by exact hv), andThen_next]
      split
      · exact ⟨_, rfl⟩
      · exact fu _ rfl rfl
    case h_9 =>
      simp only [execStepReadOther]
      rw [onRow_selected h]
      exact ⟨_, ab _⟩
    case h_10 =>
      simp only [execStepReadLiteral]
      rw [onRow_selected h]
      split
      · rw [memWrite_valid (by exact hv), andThen_next]
        split
        · exact ⟨_, rfl⟩
        · exact fu _ rfl rfl
      · exact ⟨_, ab _⟩
    all_goals
      rw [hrow] at h
      simp only [rowOf] at h
      split_ifs at h

/-- A request word read from REQ, by its `op` (30_encoding.md rule R62). -/
theorem decode_req_ok {cfg : Config} {bits : Nat} {i : Instr} (h : decode cfg .req bits = .ok i) :
    i = decodeReq cfg bits := by
  unfold decode at h
  split at h <;> cases h
  rfl

theorem decode_ev_ok {cfg : Config} {bits : Nat} {i : Instr} (h : decode cfg .ev bits = .ok i) :
    i = decodeEv bits := by
  unfold decode at h
  split at h <;> cases h
  rfl

/-- All that an entry of the schedule can do: a request step, ERROR_CODE, NONE, a delivered event, a load, a store that is
no hazard, or a reset (00_scope.md rules R7, R16). -/
theorem runAct_next {a : Act} {s t : State} (h : runAct a s = .next t) :
    (∃ op sla reg len buf res, requestStep op sla reg len buf res s = .next t) ∨
    (s.ctx.state ≠ .unused7 ∧ t = s.respond s.ctx.lastStatusCode) ∨
    t = s ∨
    (∃ status data, s.mayDeliver = true ∧ EventOutcome status data s.enterEvent t) ∨
    (∃ b, t = { s with seen := some b }) ∨
    (∃ x v, ¬(s.busy = true ∧ s.inBuffer x = true) ∧ ¬(s.busy = true ∧ x = s.ctx.resultSlot) ∧
      t = { s with mem := s.mem.write x v }) ∨
    (a = .powerOn ∧ t = powerOnReset s) ∨
    (a = .blockReset ∧ t = midReset s) := by
  cases a with
  | req bits =>
    simp only [runAct, runItem] at h
    split at h
    · rename_i i hd
      rw [decode_req_ok hd] at h
      unfold decodeReq at h
      simp only at h
      split_ifs at h
      · exact .inl ⟨.writeRegister, _, _, _, _, _, h⟩
      · exact .inl ⟨.readRegister, _, _, _, _, _, h⟩
      · simp only [exec, execErrorCode] at h
        split at h
        · cases h
        · rename_i hu
          cases h
          exact .inr (.inl ⟨hu, rfl⟩)
      · cases h
        exact .inr (.inr (.inl rfl))
    · cases h
  | ev bits =>
    simp only [runAct, runItem] at h
    split at h
    · rename_i i hd
      rw [decode_ev_ok hd] at h
      unfold decodeEv at h
      rw [exec_eventInstr, deliverEvent_eq_next] at h
      exact .inr (.inr (.inr (.inl ⟨_, _, h.1, eventStep_next h.2⟩)))
    · cases h
  | wr => exact .inl ⟨.writeRegister, _, _, _, _, _, h⟩
  | rd => exact .inl ⟨.readRegister, _, _, _, _, _, h⟩
  | ldb =>
    obtain ⟨-, -, rfl⟩ := foregroundLoad_eq_next.1 h
    exact .inr (.inr (.inr (.inr (.inl ⟨_, rfl⟩))))
  | stb =>
    obtain ⟨h1, h2, -, rfl⟩ := foregroundStore_eq_next.1 h
    exact .inr (.inr (.inr (.inr (.inr (.inl ⟨_, _, h1, h2, rfl⟩)))))
  | powerOn =>
    cases h
    simp
  | blockReset =>
    cases h
    simp

end Sys2Proof.Machine
end

