-- ==== Sys2Proof/Certificates/Slice0/Obligations.lean ====
section
/-! DEFINITION. The statements for the provers. The records in Sys2Proof.Claims say the states the rules give, written out
without the model's own operations on them, so that each equation below is also the instruction's frame. -/

open Sys2Proof Sys2Proof.Machine

namespace Sys2Proof.Claims

/-- The state after one more command of the step: the command port's list (log 33) and the bus environment, in which `last`
and `before` are the model's record of the commands received (log 11). -/
def afterCommand (c : Cmd) (s : State) : State :=
  { s with
    cmds := s.cmds ++ [c]
    bus := { pending := decide (c ≠ .stop), last := some c, before := s.bus.last } }

/-- The state after `finish_ok` (rule R121), or after `abort` but for the captured status: result byte, STOP, `Idle`. -/
def afterEnd (b : Byte) (s : State) : State :=
  let u := afterCommand .stop s
  { u with
    ctx := { s.ctx with state := .idle }
    mem := s.mem.write s.ctx.resultSlot b }

/-- The state after `abort` with the result byte `b` in the event step of raw status `status` (rule R122). -/
def afterAbort (b status : Byte) (s : State) : State :=
  let u := afterEnd b s
  { u with ctx := { s.ctx with state := .idle, lastStatusCode := status } }

/-- The state after an accepted request (rules R81, R82), its operands within their fields. -/
def afterAccept (op : Operation) (sla reg len buf res : Nat) (s : State) : State :=
  let u := afterCommand .start s
  { u with
    ctx :=
      { state := .start
        operation := op
        slaveAddress := BitVec.ofNat 7 sla
        dataRegister := BitVec.ofNat 8 reg
        buffer := buf
        bufferLength := len
        handledBytes := 0
        resultSlot := res
        lastStatusCode := s.ctx.lastStatusCode }
    mem := s.mem.write res 0x01
    rsp := some 0x00 }

/-- The two transaction requests. -/
def request (op : Operation) (sla reg len buf res : Nat) : Instr :=
  match op with
  | .writeRegister => .writeRegister sla reg len buf res
  | .readRegister => .readRegister sla reg len buf res

/-- The buffer region is valid, non-wrapping caller memory (rules R44, R51). -/
def RegionOk (cfg : Config) (buf len : Nat) : Prop :=
  buf < 2 ^ cfg.addrBits ∧ buf + len ≤ 2 ^ cfg.addrBits ∧ ∀ i, i < len → validAddr cfg (buf + i) = true

/-- What rule R86 asks of a request in `Idle`. -/
structure Admitted (cfg : Config) (sla reg len buf res : Nat) : Prop where
  slaFits : sla < 0x80
  regFits : reg < 0x100
  lenFits : len < 2 ^ cfg.lenBits
  regionOk : RegionOk cfg buf len
  slotOk : validAddr cfg res = true
  slotApart : ¬(buf ≤ res ∧ res < buf + len)

/-- The status and data byte of an event row or a sequencer row. -/
def eventOperands : Instr → Option (Byte × Byte)
  | .evStartSent low data => some (0x08 ||| low.setWidth 8, data)
  | .evRepstartSent low data => some (0x10 ||| low.setWidth 8, data)
  | .evSlawAck low data => some (0x18 ||| low.setWidth 8, data)
  | .evSlawNack low data => some (0x20 ||| low.setWidth 8, data)
  | .evDataTxAck low data => some (0x28 ||| low.setWidth 8, data)
  | .evDataTxNack low data => some (0x30 ||| low.setWidth 8, data)
  | .evArbLost low data => some (0x38 ||| low.setWidth 8, data)
  | .evSlarAck low data => some (0x40 ||| low.setWidth 8, data)
  | .evSlarNack low data => some (0x48 ||| low.setWidth 8, data)
  | .evDataRxAck low data => some (0x50 ||| low.setWidth 8, data)
  | .evDataRxNack low data => some (0x58 ||| low.setWidth 8, data)
  | .evOther status data => some (status, data)
  | .stepIdle status data => some (status, data)
  | .stepStart status data => some (status, data)
  | .stepSendSlaveWrite status data => some (status, data)
  | .stepWriteRegisterAddress status data => some (status, data)
  | .stepWriteData status data => some (status, data)
  | .stepRepeatedStart status data => some (status, data)
  | .stepReadSlarAck status data => some (status, data)
  | .stepReadByte status data => some (status, data)
  | .stepReadOther status data => some (status, data)
  | .stepReadLiteral status data => some (status, data)
  | .stepUnused status data => some (status, data)
  | .writeRegister _ _ _ _ _ => none
  | .readRegister _ _ _ _ _ => none
  | .errorCode => none
  | .noRequest => none
  | .cmdStart => none
  | .cmdRepstart => none
  | .cmdSend _ => none
  | .cmdArmAck => none
  | .cmdArmNack => none
  | .cmdStop => none
  | .cmdUnused0 => none
  | .cmdUnused7 => none
  | .resOk => none
  | .resInProgress => none
  | .resStartConditionError => none
  | .resAddressError => none
  | .resRegisterWriteError => none
  | .resDataWriteError => none
  | .resRepeatedStartError => none
  | .resDataReadError => none
  | .rspAccepted => none
  | .rspBusy => none

/-- The twelve event rows on one event's low status bits and data; `status` is that of the row of every other code. -/
def eventRows (low : BitVec 3) (status data : Byte) : List Instr :=
  [.evStartSent low data, .evRepstartSent low data, .evSlawAck low data, .evSlawNack low data, .evDataTxAck low data,
   .evDataTxNack low data, .evArbLost low data, .evSlarAck low data, .evSlarNack low data, .evDataRxAck low data,
   .evDataRxNack low data, .evOther status data]

/-- The event's status is that of a received byte or, in the literal reading, of SLA+R acknowledged: the events at which
ReadData stores a byte (rules R118, R123). -/
def storesElement (s : State) (status : Byte) : Prop :=
  s.ctx.state = .readData ∧
    (categorize s.cfg status = .dataRxAck ∨ categorize s.cfg status = .dataRxNack ∨
      (s.cfg.readLiteral = true ∧ categorize s.cfg status = .slarAck))

/-- `a` is a byte of the buffer that a running transaction has borrowed (rules R41, R186). -/
def Borrowed (s : State) (a : Nat) : Prop :=
  s.busy = true ∧ s.ctx.buffer ≤ a ∧ a < s.ctx.buffer + s.ctx.bufferLength

/-- `a` is the result byte of a running transaction (rule R187). -/
def ResultByteInUse (s : State) (a : Nat) : Prop :=
  s.busy = true ∧ a = s.ctx.resultSlot

/-- What the outside does at a step that faults: an event delivered while none is pending where the platform admits none
(rules R146, R152; log 17), a hazard (rules R186, R187), or an access of the foreground that is no valid caller memory (rule
R51). -/
inductive FaultCause (s : State) : Act → Fault → Prop
  | notPending (bits : Nat) (hp : s.bus.pending = false) (ha : s.cfg.spurious = .notAdmitted) :
      FaultCause s (.ev bits) .noEventPending
  | borrowedLoad (a : Nat) (h : Borrowed s a) : FaultCause s (.ldb a) .bufferAccessWhileBusy
  | invalidLoad (a : Nat) (h : validAddr s.cfg a = false) : FaultCause s (.ldb a) .memoryNotValid
  | borrowedStore (a : Nat) (v : Byte) (h : Borrowed s a) : FaultCause s (.stb a v) .bufferAccessWhileBusy
  | resultStore (a : Nat) (v : Byte) (h : ResultByteInUse s a) : FaultCause s (.stb a v) .resultSlotWriteWhileBusy
  | invalidStore (a : Nat) (v : Byte) (h : validAddr s.cfg a = false) : FaultCause s (.stb a v) .memoryNotValid

/-- The names under which rule R86 refuses a request. -/
def admissionRefusals : List Refusal :=
  [.slaveAddressTooWide, .operandTooWide, .regionNotValid, .resultSlotInBuffer]

/-- What the outside does at a step that is refused: a word wider than its port, or in `Idle` a transaction request, by call
or by word, that rule R86 does not admit. -/
inductive RefusalCause (s : State) : Act → Refusal → Prop
  | wideRequest (bits : Nat) (h : 2 ^ portWidth s.cfg .req ≤ bits) :
      RefusalCause s (.req bits) (.undecodable (.wordTooWide .req))
  | wideEvent (bits : Nat) (h : 2 ^ portWidth s.cfg .ev ≤ bits) :
      RefusalCause s (.ev bits) (.undecodable (.wordTooWide .ev))
  | writeCall (sla reg len buf res : Nat) (r : Refusal) (hq : s.ctx.state = .idle)
      (h : ¬Admitted s.cfg sla reg len buf res) (hr : r ∈ admissionRefusals) :
      RefusalCause s (.wr sla reg buf len res) r
  | readCall (sla reg len buf res : Nat) (r : Refusal) (hq : s.ctx.state = .idle)
      (h : ¬Admitted s.cfg sla reg len buf res) (hr : r ∈ admissionRefusals) :
      RefusalCause s (.rd sla reg buf len res) r
  | word (bits : Nat) (op : Operation) (sla reg len buf res : Nat) (r : Refusal) (hq : s.ctx.state = .idle)
      (hd : decode s.cfg .req bits = .ok (request op sla reg len buf res))
      (h : ¬Admitted s.cfg sla reg len buf res) (hr : r ∈ admissionRefusals) : RefusalCause s (.req bits) r

/-- Rows of the table executed one after the other. -/
def runRows : List Instr → State → Result
  | [], s => .next s
  | i :: rest, s => andThen (exec i s) (runRows rest)

/-- How a delivered event is handled (rules R111, R128): in `Idle` nothing of the block changes; elsewhere the step emits
commands, of which the last is STOP exactly when the block becomes idle, and one only under the default reading; an
event is pending afterwards exactly while the block is busy. -/
def Handled (s t : State) : Prop :=
  (s.ctx.state = .idle → t.ctx = s.ctx ∧ t.mem = s.mem ∧ t.cmds = s.cmds) ∧
  (s.ctx.state ≠ .idle → t.bus.pending = decide (t.ctx.state ≠ .idle) ∧
    ∃ cs c, t.cmds = s.cmds ++ cs ++ [c] ∧ (c = .stop ↔ t.ctx.state = .idle) ∧
      (s.cfg.readLiteral = false → cs = []))

end Sys2Proof.Claims

open Sys2Proof.Claims

/-! Encodings and operands. -/

/-- Decoding an instruction's encoding gives it back, for every row of the table, every operand that fits and every value
of the parameters (30_encoding.md rules R60 to R71; the STATE words' operand part is log 9). -/
def Obligations.DecodeEncodeAgree : Prop :=
  ∀ (cfg : Config) (i : Instr), i.wf cfg = true → decode cfg (encode cfg i).1 (encode cfg i).2 = .ok i

/-- No bit of an input word is dropped but those the spec ignores: encoding what an EV word or a transaction request's word
decodes to gives the word back (rules R61, R64, R65). -/
def Obligations.EncodeDecodeAgreeOnInputs : Prop :=
  ∀ (cfg : Config) (bits : Nat),
    (bits < 2 ^ 16 → encode cfg (decodeEv bits) = (.ev, bits)) ∧
    (bits < 2 ^ (17 + cfg.lenBits + 2 * cfg.addrBits) → bits % 4 = 1 ∨ bits % 4 = 2 →
      encode cfg (decodeReq cfg bits) = (.req, bits))

/-- Every bit pattern of REQ, EV and RES has its one reading (30_encoding.md section 4): a REQ or EV word is a well-formed
row of the table; a RES value is the row of its code, or a value the block never writes. The model's choices beside it: the
names of those readings, and that RSP is read by the request it answers (log 21); that every CMD word is the row of its
code whatever its byte field, codes 0 and 7 included (log 21, log 22). -/
def Obligations.InputPortsDecodeTotally : Prop :=
  ∀ (cfg : Config) (p : Port) (bits : Nat), bits < 2 ^ portWidth cfg p →
    (p = .req ∨ p = .ev ∨ p = .cmd ∨ (p = .res ∧ bits ≤ 7) ∨ (p = .rsp .transaction ∧ bits ≤ 1) →
      ∃ i, readPort cfg p bits = .row i ∧ decode cfg p bits = .ok i ∧ i.wf cfg = true) ∧
    (p = .res → 8 ≤ bits → readPort cfg p bits = .resultNeverWritten (BitVec.ofNat 8 bits)) ∧
    (p = .rsp .transaction → 2 ≤ bits → readPort cfg p bits = .responseNeverProduced (BitVec.ofNat 8 bits)) ∧
    (p = .rsp .errorCode → readPort cfg p bits = .statusResponse (BitVec.ofNat 8 bits))

/-- Words written out in 95_test_vectors.md decode to the instructions they stand for. -/
def Obligations.SpecWordsDecode : Prop :=
  decode defaultConfig .req 0x004000200042141 = .ok (.writeRegister 0x50 0x10 2 0x0100 0x0200) ∧
  decode defaultConfig .req 0x004000200064142 = .ok (.readRegister 0x50 0x20 3 0x0100 0x0200) ∧
  decode defaultConfig .req 0x000000000000003 = .ok .errorCode ∧
  decode defaultConfig .ev 0x3358 = .ok (.evDataRxNack 0 0x33) ∧
  decode defaultConfig .ev 0x0009 = .ok (.evStartSent 1 0) ∧
  decode defaultConfig .cmd 0x553 = .ok (.cmdSend 0xAA) ∧
  decode defaultConfig .cmd 0x006 = .ok .cmdStop

/-- The decoder's categories at the default parameters (rules R92 to R103): the masked code alone gives the category. -/
def Obligations.StatusCodesGiveTheirCategories : Prop :=
  ∀ status : Byte,
    let code := status &&& 0xF8
    categorize defaultConfig status =
      if code = 0x08 then .startSent
      else if code = 0x10 then .repstartSent
      else if code = 0x18 then .slawAck
      else if code = 0x20 then .slawNack
      else if code = 0x28 then .dataTxAck
      else if code = 0x30 then .dataTxNack
      else if code = 0x38 then .arbLost
      else if code = 0x40 then .slarAck
      else if code = 0x48 then .other
      else if code = 0x50 then .dataRxAck
      else if code = 0x58 then .dataRxNack
      else .other

/-- Raw statuses that agree in bits 7..3 decode alike (rule R104), with any table. -/
def Obligations.LowStatusBitsDoNotClassify : Prop :=
  ∀ (cfg : Config) (a b : Byte), cfg.statusMask = 0xF8 → a &&& 0xF8 = b &&& 0xF8 →
    categorize cfg a = categorize cfg b

/-- SLA+W and SLA+R (rule R66): the address times two, with direction bit 0 for write and 1 for read. -/
def Obligations.AddressFraming : Prop :=
  (∀ sla : BitVec 7, (slaW sla).toNat = 2 * sla.toNat ∧ (slaR sla).toNat = 2 * sla.toNat + 1) ∧
    slaW 0x50 = 0xA0 ∧ slaR 0x50 = 0xA1

/-- The arm function (rule R120): over the elements of a read of `len > 0` bytes it gives `len - 1` ACKs, then one NACK. -/
def Obligations.ArmGivesOneNackLast : Prop :=
  (∀ h len, h < len → arm h len = if h + 1 < len then .armAck else .armNack) ∧
  ∀ len, 0 < len → (List.range len).map (fun h => arm h len) = List.replicate (len - 1) .armAck ++ [.armNack]

/-! The request port. -/

/-- An admitted WRITE_REGISTER or READ_REGISTER in `Idle` is accepted (rules R81, R82, R87, R88): the state it gives. -/
def Obligations.AdmittedRequestIsAccepted : Prop :=
  ∀ (s : State) (op : Operation) (sla reg len buf res : Nat), s.ctx.state = .idle →
    Admitted s.cfg sla reg len buf res →
    exec (request op sla reg len buf res) s = .next (afterAccept op sla reg len buf res s)

/-- WRITE_REGISTER or READ_REGISTER while busy (rule R83): BUSY, and no other effect, whatever its operands. -/
def Obligations.BusyRequestIsRejected : Prop :=
  ∀ (s : State) (op : Operation) (sla reg len buf res : Nat), s.ctx.state ≠ .idle → s.ctx.state ≠ .unused7 →
    exec (request op sla reg len buf res) s = .next { s with rsp := some 0x01 }

/-- The admission checks of rule R86 with rules R51 and R52, in order: what each refuses. The model's choices: the order
(log 26); that a region or result byte that is not there is refused at acceptance (log 13); that an operand too wide for its
address register is refused so too, the address of an empty buffer included (log 14). -/
def Obligations.InadmissibleRequestIsRefused : Prop :=
  ∀ (s : State) (op : Operation) (sla reg len buf res : Nat), s.ctx.state = .idle →
    (0x80 ≤ sla → exec (request op sla reg len buf res) s = .refused .slaveAddressTooWide) ∧
    (sla < 0x80 → 0x100 ≤ reg ∨ 2 ^ s.cfg.lenBits ≤ len →
      exec (request op sla reg len buf res) s = .refused .operandTooWide) ∧
    (sla < 0x80 → reg < 0x100 → len < 2 ^ s.cfg.lenBits →
      ¬(RegionOk s.cfg buf len ∧ validAddr s.cfg res = true) →
      exec (request op sla reg len buf res) s = .refused .regionNotValid) ∧
    (sla < 0x80 → reg < 0x100 → len < 2 ^ s.cfg.lenBits → RegionOk s.cfg buf len → validAddr s.cfg res = true →
      buf ≤ res → res < buf + len → exec (request op sla reg len buf res) s = .refused .resultSlotInBuffer)

/-- ERROR_CODE in each of the seven states (rule R84): it responds `last_status_code` and changes nothing else. -/
def Obligations.ErrorCodeResponds : Prop :=
  ∀ s : State, s.ctx.state ≠ .unused7 → exec .errorCode s = .next { s with rsp := some s.ctx.lastStatusCode }

/-- NONE: nothing changes. That the absence of a request, which has no step, is the step that changes nothing is the model's
inference (log 29). -/
def Obligations.NoRequestChangesNothing : Prop :=
  ∀ s : State, exec .noRequest s = .next s

/-- Code 7 of `ctx.state` (rule R38): every request step is refused, and every event that may be delivered. -/
def Obligations.UnusedStateIsRefused : Prop :=
  ∀ (s : State), s.ctx.state = .unused7 →
    (∀ op sla reg len buf res, exec (request op sla reg len buf res) s = .refused .stateEncodingUnused) ∧
    exec .errorCode s = .refused .stateEncodingUnused ∧
    (∀ status data, exec (.stepUnused status data) s = .refused .stateEncodingUnused) ∧
    ∀ low status data, s.bus.pending = true →
      ∀ i ∈ eventRows low status data, exec i s = .refused .stateEncodingUnused

/-! The sequencer, one rule per state. `validAddr` at the result byte and at the element is rule R51's admission. -/

/-- Rule R111: in `Idle` an event writes nothing (where the bus hardware does not raise it again, log 17). -/
def Obligations.IdleIgnoresEvents : Prop :=
  ∀ (s : State) (status data : Byte), s.ctx.state = .idle → s.cfg.spurious ≠ .admittedRepeating →
    exec (.stepIdle status data) s = .next s

/-- Rule R112, `Start`. -/
def Obligations.StartRule : Prop :=
  ∀ (s : State) (status data : Byte), s.ctx.state = .start →
    (categorize s.cfg status = .startSent →
      exec (.stepStart status data) s =
        .next { afterCommand (.send (slaW s.ctx.slaveAddress)) s with
          ctx := { s.ctx with state := .sendSlaveWrite } }) ∧
    (categorize s.cfg status ≠ .startSent → validAddr s.cfg s.ctx.resultSlot = true →
      exec (.stepStart status data) s = .next (afterAbort 0x02 status s))

/-- Rule R113, `SendSlaveWrite`. -/
def Obligations.SendSlaveWriteRule : Prop :=
  ∀ (s : State) (status data : Byte), s.ctx.state = .sendSlaveWrite →
    (categorize s.cfg status = .slawAck →
      exec (.stepSendSlaveWrite status data) s =
        .next { afterCommand (.send s.ctx.dataRegister) s with
          ctx := { s.ctx with state := .writeRegisterAddress } }) ∧
    (categorize s.cfg status ≠ .slawAck → validAddr s.cfg s.ctx.resultSlot = true →
      exec (.stepSendSlaveWrite status data) s = .next (afterAbort 0x03 status s))

/-- Rule R114, `WriteRegisterAddress`: the length test first, then by operation. -/
def Obligations.WriteRegisterAddressRule : Prop :=
  ∀ (s : State) (status data : Byte), s.ctx.state = .writeRegisterAddress →
    (categorize s.cfg status = .dataTxAck → s.ctx.bufferLength = 0 → validAddr s.cfg s.ctx.resultSlot = true →
      exec (.stepWriteRegisterAddress status data) s = .next (afterEnd 0x00 s)) ∧
    (categorize s.cfg status = .dataTxAck → s.ctx.bufferLength ≠ 0 → s.ctx.operation = .writeRegister →
      validAddr s.cfg s.ctx.buffer = true →
      exec (.stepWriteRegisterAddress status data) s =
        .next { afterCommand (.send (s.byteAt s.ctx.buffer)) s with
          ctx := { s.ctx with state := .writeData, handledBytes := 1 } }) ∧
    (categorize s.cfg status = .dataTxAck → s.ctx.bufferLength ≠ 0 → s.ctx.operation = .readRegister →
      exec (.stepWriteRegisterAddress status data) s =
        .next { afterCommand .repstart s with ctx := { s.ctx with state := .repeatedStart } }) ∧
    (categorize s.cfg status ≠ .dataTxAck → validAddr s.cfg s.ctx.resultSlot = true →
      exec (.stepWriteRegisterAddress status data) s = .next (afterAbort 0x04 status s))

/-- Rule R115, `WriteData`; the length fits its register (rule R124), so the count does not wrap. -/
def Obligations.WriteDataRule : Prop :=
  ∀ (s : State) (status data : Byte), s.ctx.state = .writeData → s.ctx.bufferLength < 2 ^ s.cfg.lenBits →
    (categorize s.cfg status = .dataTxAck → s.ctx.handledBytes < s.ctx.bufferLength →
      validAddr s.cfg (s.ctx.buffer + s.ctx.handledBytes) = true →
      exec (.stepWriteData status data) s =
        .next { afterCommand (.send (s.byteAt (s.ctx.buffer + s.ctx.handledBytes))) s with
          ctx := { s.ctx with handledBytes := s.ctx.handledBytes + 1 } }) ∧
    (categorize s.cfg status = .dataTxAck → ¬s.ctx.handledBytes < s.ctx.bufferLength →
      validAddr s.cfg s.ctx.resultSlot = true →
      exec (.stepWriteData status data) s = .next (afterEnd 0x00 s)) ∧
    (categorize s.cfg status ≠ .dataTxAck → validAddr s.cfg s.ctx.resultSlot = true →
      exec (.stepWriteData status data) s = .next (afterAbort 0x05 status s))

/-- Rule R116, `RepeatedStart`. -/
def Obligations.RepeatedStartRule : Prop :=
  ∀ (s : State) (status data : Byte), s.ctx.state = .repeatedStart →
    (categorize s.cfg status = .repstartSent →
      exec (.stepRepeatedStart status data) s =
        .next { afterCommand (.send (slaR s.ctx.slaveAddress)) s with
          ctx := { s.ctx with state := .readData } }) ∧
    (categorize s.cfg status ≠ .repstartSent → validAddr s.cfg s.ctx.resultSlot = true →
      exec (.stepRepeatedStart status data) s = .next (afterAbort 0x06 status s))

/-- Rule R117, `ReadData` on SLAR_ACK: one arm command, nothing stored. Rule R120 gives the arm function where
`handled_bytes` is below `buffer_length`; that it is ARM_NACK in the states outside the invariant where it is not is the
model's choice (log 37). -/
def Obligations.ReadSlarAckRule : Prop :=
  ∀ (s : State) (status data : Byte), s.ctx.state = .readData → s.cfg.readLiteral = false →
    categorize s.cfg status = .slarAck →
    exec (.stepReadSlarAck status data) s =
      .next (afterCommand (if s.ctx.handledBytes + 1 < s.ctx.bufferLength then .armAck else .armNack) s)

/-- Rule R118, `ReadData` on a received byte, with either acknowledgement. -/
def Obligations.ReadByteRule : Prop :=
  ∀ (s : State) (status data : Byte), s.ctx.state = .readData → s.cfg.readLiteral = false →
    categorize s.cfg status = .dataRxAck ∨ categorize s.cfg status = .dataRxNack →
    s.ctx.handledBytes < s.ctx.bufferLength → s.ctx.bufferLength < 2 ^ s.cfg.lenBits →
    validAddr s.cfg (s.ctx.buffer + s.ctx.handledBytes) = true →
    let stored : State :=
      { s with
        ctx := { s.ctx with handledBytes := s.ctx.handledBytes + 1 }
        mem := s.mem.write (s.ctx.buffer + s.ctx.handledBytes) data }
    (s.ctx.handledBytes + 1 < s.ctx.bufferLength →
      exec (.stepReadByte status data) s =
        .next (afterCommand (if s.ctx.handledBytes + 2 < s.ctx.bufferLength then .armAck else .armNack) stored)) ∧
    (s.ctx.handledBytes + 1 = s.ctx.bufferLength → validAddr s.cfg s.ctx.resultSlot = true →
      exec (.stepReadByte status data) s = .next (afterEnd 0x00 stored))

/-- Rule R119, `ReadData` on any other category. -/
def Obligations.ReadOtherRule : Prop :=
  ∀ (s : State) (status data : Byte), s.ctx.state = .readData → s.cfg.readLiteral = false →
    categorize s.cfg status ≠ .slarAck → categorize s.cfg status ≠ .dataRxAck →
    categorize s.cfg status ≠ .dataRxNack → validAddr s.cfg s.ctx.resultSlot = true →
    exec (.stepReadOther status data) s = .next (afterAbort 0x07 status s)

/-- Rule R123, `ReadData` in the literal reading. -/
def Obligations.ReadLiteralRule : Prop :=
  ∀ (s : State) (status data : Byte), s.ctx.state = .readData → s.cfg.readLiteral = true →
    validAddr s.cfg s.ctx.resultSlot = true →
    let accepted := categorize s.cfg status = .slarAck ∨ categorize s.cfg status = .dataRxAck ∨
      categorize s.cfg status = .dataRxNack
    let stored : State :=
      { s with
        ctx := { s.ctx with handledBytes := s.ctx.handledBytes + 1 }
        mem := s.mem.write (s.ctx.buffer + s.ctx.handledBytes) data }
    (accepted → s.ctx.handledBytes < s.ctx.bufferLength → s.ctx.bufferLength < 2 ^ s.cfg.lenBits →
      validAddr s.cfg (s.ctx.buffer + s.ctx.handledBytes) = true →
      exec (.stepReadLiteral status data) s =
        .next (if s.ctx.handledBytes + 1 < s.ctx.bufferLength then afterCommand .armAck stored
          else afterEnd 0x00 (afterCommand .armNack stored))) ∧
    (¬accepted → exec (.stepReadLiteral status data) s = .next (afterAbort 0x07 status s))

/-- A sequencer row runs only where `ctx.state`, the event and P_READ_LITERAL select it (rule R110; the refusal elsewhere is
the model's, log 9), and the rows of the seven states and eleven categories are exclusive (rule R129). -/
def Obligations.SequencerRowsAreExclusive : Prop :=
  ∀ (s : State) (status data : Byte) (r : StepRow), r ≠ rowOf s.cfg s.ctx.state status →
    exec (stepInstr r status data) s = .refused .stepNotSelected

/-- Every access of the sequencer at an address that is not valid caller memory is stuck (20_memory.md section 4): the result
byte in each abort and each end, a buffer element where it is read and where it is written. That stuck is the fault
`memoryNotValid` is the model's choice (log 13); the count is taken on its own width
(log 18); the accesses of a request are refused before they are made. -/
def Obligations.InvalidMemoryIsStuck : Prop :=
  ∀ (s : State) (status data : Byte),
    let c := categorize s.cfg status
    let received := c = .dataRxAck ∨ c = .dataRxNack
    let last := s.ctx.bufferLength ≤ (s.ctx.handledBytes + 1) % 2 ^ s.cfg.lenBits
    let stuck (i : Instr) := exec i s = .fault .memoryNotValid
    (validAddr s.cfg s.ctx.resultSlot = false →
      (s.ctx.state = .start → c ≠ .startSent → stuck (.stepStart status data)) ∧
      (s.ctx.state = .sendSlaveWrite → c ≠ .slawAck → stuck (.stepSendSlaveWrite status data)) ∧
      (s.ctx.state = .writeRegisterAddress → c ≠ .dataTxAck ∨ s.ctx.bufferLength = 0 →
        stuck (.stepWriteRegisterAddress status data)) ∧
      (s.ctx.state = .writeData → c ≠ .dataTxAck ∨ ¬s.ctx.handledBytes < s.ctx.bufferLength →
        stuck (.stepWriteData status data)) ∧
      (s.ctx.state = .repeatedStart → c ≠ .repstartSent → stuck (.stepRepeatedStart status data)) ∧
      (s.ctx.state = .readData → s.cfg.readLiteral = false → received → last →
        stuck (.stepReadByte status data)) ∧
      (s.ctx.state = .readData → s.cfg.readLiteral = false → c ≠ .slarAck → ¬received →
        stuck (.stepReadOther status data)) ∧
      (s.ctx.state = .readData → s.cfg.readLiteral = true →
        (¬(c = .slarAck ∨ received)) ∨ last → stuck (.stepReadLiteral status data))) ∧
    (validAddr s.cfg s.ctx.buffer = false → s.ctx.state = .writeRegisterAddress → c = .dataTxAck →
      s.ctx.bufferLength ≠ 0 → s.ctx.operation = .writeRegister → stuck (.stepWriteRegisterAddress status data)) ∧
    (validAddr s.cfg (s.ctx.buffer + s.ctx.handledBytes) = false →
      (s.ctx.state = .writeData → c = .dataTxAck → s.ctx.handledBytes < s.ctx.bufferLength →
        stuck (.stepWriteData status data)) ∧
      (s.ctx.state = .readData → s.cfg.readLiteral = false → received → stuck (.stepReadByte status data)) ∧
      (s.ctx.state = .readData → s.cfg.readLiteral = true → c = .slarAck ∨ received →
        stuck (.stepReadLiteral status data)))

/-! The bus-event port. -/

/-- Delivery of an event (rules R110, R146): each event row clears `bus_pending` and is the sequencer row that `ctx.state`
and the event select. -/
def Obligations.EventRowsRunTheSelectedRule : Prop :=
  ∀ (s : State) (low : BitVec 3) (status data : Byte), s.bus.pending = true →
    ∀ i ∈ eventRows low status data, ∀ st d, eventOperands i = some (st, d) →
      exec i s =
        exec (stepInstr (rowOf s.cfg s.ctx.state st) st d) { s with bus := { s.bus with pending := false } }

/-- Every event in every state of the seven is handled, whatever its status and data (rules R128, R129, R160): each event
row answers a next state when one is pending and the transaction's memory is there. -/
def Obligations.EveryEventIsHandled : Prop :=
  ∀ (s : State) (low : BitVec 3) (status data : Byte), s.bus.pending = true → s.ctx.state ≠ .unused7 →
    (s.busy = true → s.MemoryReady) → (s.ctx.state = .readData → s.ctx.handledBytes < s.ctx.bufferLength) →
    s.ctx.bufferLength < 2 ^ s.cfg.lenBits →
    ∀ i ∈ eventRows low status data, ∃ t, exec i s = .next t ∧ Handled s t

/-- The bus environment has no step when no event is pending (rules R146, R152); where the platform admits spurious events
the event is handled as if one were pending (log 17). -/
def Obligations.DeliveryNeedsAPendingEvent : Prop :=
  ∀ (s : State) (low : BitVec 3) (status data : Byte), s.bus.pending = false →
    ∀ i ∈ eventRows low status data,
      (s.cfg.spurious = .notAdmitted → exec i s = .fault .noEventPending) ∧
      (s.cfg.spurious ≠ .notAdmitted → exec i s = exec i { s with bus := { s.bus with pending := true } })

/-- A stale event in `Idle` (rules R111, R182) clears `bus_pending` and nothing else; with the repeating policy it is raised
again (log 17). -/
def Obligations.StaleEventInIdle : Prop :=
  ∀ (s : State) (low : BitVec 3) (status data : Byte), s.ctx.state = .idle → s.bus.pending = true →
    ∀ i ∈ eventRows low status data,
      exec i s = .next { s with bus := { s.bus with pending := decide (s.cfg.spurious = .admittedRepeating) } }

/-- The data byte is read only at the events that store it (rule R149): at any other event two data bytes give the same
outcome. -/
def Obligations.DataByteIgnoredUnlessStored : Prop :=
  ∀ (s : State) (status d d' : Byte), ¬storesElement s status →
    exec (eventInstr status d) s = exec (eventInstr status d') s

/-- What an error leaves for the foreground (rules R122, R169): after an event step that ended a transaction with an error
code, the result byte holds it and ERROR_CODE responds the raw status of that event. -/
def Obligations.ErrorCodeAfterAnError : Prop :=
  ∀ (s t : State) (status data : Byte), s.mem.wf = true → s.ctx.state ≠ .idle →
    exec (eventInstr status data) s = .next t → t.ctx.state = .idle → t.byteAt s.ctx.resultSlot ≠ 0x00 →
    2 ≤ (t.byteAt s.ctx.resultSlot).toNat ∧ (t.byteAt s.ctx.resultSlot).toNat ≤ 7 ∧
      exec .errorCode t = .next { t with rsp := some status }

/-! The command port, the result byte, the response port. -/

/-- START, REPSTART, SEND, ARM_ACK and ARM_NACK start a bus operation (rules R141 to R145, R148): an event becomes pending,
and the bus hardware holds the command. STOP starts none (rule R147). -/
def Obligations.CommandsStartBusOperations : Prop :=
  ∀ (s : State) (b : Byte),
    let got (p : Bool) (c : Cmd) : State :=
      { s with cmds := s.cmds ++ [c], bus := { pending := p, last := some c, before := s.bus.last } }
    exec .cmdStart s = .next (got true .start) ∧ exec .cmdRepstart s = .next (got true .repstart) ∧
    exec (.cmdSend b) s = .next (got true (.send b)) ∧ exec .cmdArmAck s = .next (got true .armAck) ∧
    exec .cmdArmNack s = .next (got true .armNack) ∧ exec .cmdStop s = .next (got false .stop)

/-- `bus_pending` after a step's command list: kept by an empty list, false after a last STOP, else true. That the list is
received as the fold of its commands is log 12; that an empty list keeps the bit, where R33 says otherwise, is log 36. -/
def Obligations.LastCommandDecidesPending : Prop :=
  ∀ (s : State) (cs : List Cmd),
    (cs.foldl State.emit s).cmds = s.cmds ++ cs ∧
    (cs.foldl State.emit s).bus.pending =
      match cs.getLast? with
      | none => s.bus.pending
      | some c => decide (c ≠ .stop)

/-- Command codes 0 and 7 are never produced by the block (rule R70): the model stops on them by name. -/
def Obligations.UnusedCommandCodesStop : Prop :=
  ∀ s : State, exec .cmdUnused0 s = .refused .commandCodeUnused ∧ exec .cmdUnused7 s = .refused .commandCodeUnused

/-- The result codes' values, each written to the byte at `ctx.result_slot` and nowhere else (rules R45, R68). -/
def Obligations.ResultCodesAreWritten : Prop :=
  ∀ s : State, validAddr s.cfg s.ctx.resultSlot = true →
    let wrote (b : Byte) : State := { s with mem := s.mem.write s.ctx.resultSlot b }
    exec .resOk s = .next (wrote 0x00) ∧ exec .resInProgress s = .next (wrote 0x01) ∧
    exec .resStartConditionError s = .next (wrote 0x02) ∧ exec .resAddressError s = .next (wrote 0x03) ∧
    exec .resRegisterWriteError s = .next (wrote 0x04) ∧ exec .resDataWriteError s = .next (wrote 0x05) ∧
    exec .resRepeatedStartError s = .next (wrote 0x06) ∧ exec .resDataReadError s = .next (wrote 0x07)

/-- The two responses of a transaction request (rule R63). -/
def Obligations.ResponsesAreGiven : Prop :=
  ∀ s : State, exec .rspAccepted s = .next { s with rsp := some 0x00 } ∧
    exec .rspBusy s = .next { s with rsp := some 0x01 }

/-- The rows of the block's outputs act inside its request and event steps, where the spec has the block emit commands,
write result codes and give responses; the schedule has no entry for them (00_scope.md sections 4 and 8; log 8). A request is
its context followed by its result, command and response rows; what an event or sequencer row does while busy, besides the
context and the element it stores, is what some command and result rows do one after the other. -/
def Obligations.OutputRowsActInsideTheBlocksSteps : Prop :=
  ∀ s : State,
    (∀ op sla reg len buf res, s.ctx.state = .idle → Admitted s.cfg sla reg len buf res →
      exec (request op sla reg len buf res) s =
        runRows [.resInProgress, .cmdStart, .rspAccepted]
          { s with ctx := (afterAccept op sla reg len buf res s).ctx }) ∧
    (∀ op sla reg len buf res, s.ctx.state ≠ .idle → s.ctx.state ≠ .unused7 →
      exec (request op sla reg len buf res) s = runRows [.rspBusy] s) ∧
    ∀ i status data t, s.ctx.state ≠ .idle → eventOperands i = some (status, data) → exec i s = .next t →
      ∃ (stored : Memory) (rows : List Instr) (u : State),
        (stored = s.mem ∨
          (storesElement s status ∧ stored = s.mem.write (s.ctx.buffer + s.ctx.handledBytes) data)) ∧
        (∀ r ∈ rows, (encode s.cfg r).1 = .cmd ∨ (encode s.cfg r).1 = .res) ∧
        runRows rows { s with mem := stored } = .next u ∧ t = { u with ctx := t.ctx }

/-! The foreground's plain accesses and the resets. -/

/-- Polling (rule R89): while the invariant holds and the block is busy, `LDB` of the result byte gives RES_IN_PROGRESS and
changes nothing but the schedule and the outputs. -/
def Obligations.PollingWhileBusy : Prop :=
  ∀ (s : State) (rest : List Act), Inv s → s.busy = true → s.agenda = .ldb s.ctx.resultSlot :: rest →
    step s = .next { s with agenda := rest, cmds := [], rsp := none, seen := some 0x01 }

/-- A final code seen by the foreground means an idle block (rule R55), in every state that meets the invariant. -/
def Obligations.FinalResultMeansIdle : Prop :=
  ∀ (s t : State) (rest : List Act) (b : Byte), Inv s → s.agenda = .ldb s.ctx.resultSlot :: rest →
    step s = .next t → t.seen = some b → b ≠ 0x01 → t.ctx.state = .idle

/-- The hazards (rules R186, R187): while busy a foreground access to a borrowed buffer byte and a foreground write of the
result byte are faults. That a byte which is both, in states that no run reaches, is the buffer hazard for a load and a
store alike is the model's choice (log 38). -/
def Obligations.BorrowedMemoryHazards : Prop :=
  ∀ (s : State) (a : Nat) (v : Byte) (rest : List Act), s.busy = true →
    (s.ctx.buffer ≤ a → a < s.ctx.buffer + s.ctx.bufferLength →
      (s.agenda = .ldb a :: rest → step s = .fault .bufferAccessWhileBusy) ∧
      (s.agenda = .stb a v :: rest → step s = .fault .bufferAccessWhileBusy)) ∧
    (¬(s.ctx.buffer ≤ s.ctx.resultSlot ∧ s.ctx.resultSlot < s.ctx.buffer + s.ctx.bufferLength) →
      s.agenda = .stb s.ctx.resultSlot v :: rest → step s = .fault .resultSlotWriteWhileBusy)

/-- Caller memory as the foreground sees it while the block is idle (rules R42, R43): a byte stored is read back, every other
address reads as before. -/
def Obligations.StoreThenLoad : Prop :=
  ∀ (s : State) (a b : Nat) (v : Byte), s.ctx.state = .idle → s.mem.wf = true → validAddr s.cfg a = true →
    validAddr s.cfg b = true → s.agenda = [.stb a v, .ldb b] →
    ∃ t u, step s = .next t ∧ step t = .next u ∧ u.seen = some (if b = a then v else s.byteAt b) ∧
      u.ctx = s.ctx ∧ u.bus = s.bus

/-- Power-on reset (70_reset_and_hazards.md section 1) from any state: the context zero, no event pending, no memory written,
no command. Its place in the schedule is the model's choice (log 30). -/
def Obligations.PowerOnReset : Prop :=
  ∀ (s : State) (rest : List Act), s.agenda = .powerOn :: rest →
    ∃ t, step s = .next t ∧ t.ctx = Context.zero ∧ t.bus.pending = false ∧ t.mem = s.mem ∧ t.cmds = [] ∧
      t.cfg = s.cfg ∧ t.agenda = rest

/-- A reset of the block: the context zero, `bus_pending` kept, no command, no memory. The spec speaks of a reset while a
transaction runs; that one in `Idle` does the same is the model's choice, as is its place in the schedule (log 30). -/
def Obligations.MidTransactionReset : Prop :=
  ∀ (s : State) (rest : List Act), s.agenda = .blockReset :: rest →
    step s = .next { s with ctx := Context.zero, agenda := rest, cmds := [], rsp := none, seen := none }

/-- The state after reset (rule R37): every context register 0 and no event pending. -/
def Obligations.ResetLeavesContextZero : Prop :=
  let c := State.reset.ctx
  c.state = .idle ∧ c.operation = .writeRegister ∧ c.slaveAddress = 0 ∧ c.dataRegister = 0 ∧ c.buffer = 0 ∧
    c.bufferLength = 0 ∧ c.handledBytes = 0 ∧ c.resultSlot = 0 ∧ c.lastStatusCode = 0 ∧
    State.reset.bus.pending = false

/-! The step. -/

/-- A step runs the decoded instruction: the schedule's next REQ or EV item, decoded, is executed on the state with the rest of the
schedule and no output yet; the foreground's calls run without decoding (log 5, log 10). -/
def Obligations.StepRunsDecodedInstruction : Prop :=
  ∀ (s : State) (rest : List Act),
    let begun : State := { s with agenda := rest, cmds := [], rsp := none, seen := none }
    (∀ bits i, s.agenda = .req bits :: rest → decode s.cfg .req bits = .ok i → step s = exec i begun) ∧
    (∀ bits i, s.agenda = .ev bits :: rest → decode s.cfg .ev bits = .ok i → step s = exec i begun) ∧
    (∀ bits e, s.agenda = .req bits :: rest → decode s.cfg .req bits = .error e →
      step s = .refused (.undecodable e)) ∧
    (∀ bits e, s.agenda = .ev bits :: rest → decode s.cfg .ev bits = .error e →
      step s = .refused (.undecodable e)) ∧
    (∀ sla reg len buf res, s.agenda = .wr sla reg buf len res :: rest →
      step s = exec (.writeRegister sla reg len buf res) begun) ∧
    (∀ sla reg len buf res, s.agenda = .rd sla reg buf len res :: rest →
      step s = exec (.readRegister sla reg len buf res) begun) ∧
    (s.agenda = [] → step s = .next s)

/-! Frames and whole-machine rules. -/

/-- No instruction changes the parameters, the schedule or the foreground's last read byte (log 1), and none but an accepted
request changes a field of the context that a request supplies other than `handled_bytes` (rules R21, R183). -/
def Obligations.InstructionsKeepWhatIsNotTheirs : Prop :=
  ∀ (i : Instr) (s t : State), exec i s = .next t →
    t.cfg = s.cfg ∧ t.agenda = s.agenda ∧ t.seen = s.seen ∧
    ((∀ op sla reg len buf res, i = request op sla reg len buf res → s.ctx.state ≠ .idle) →
      t.ctx.operation = s.ctx.operation ∧ t.ctx.slaveAddress = s.ctx.slaveAddress ∧
      t.ctx.dataRegister = s.ctx.dataRegister ∧ t.ctx.buffer = s.ctx.buffer ∧
      t.ctx.bufferLength = s.ctx.bufferLength ∧ t.ctx.resultSlot = s.ctx.resultSlot)

/-- The frame of the request rows: memory changes only at the result byte of an accepted request; `last_status_code` never. -/
def Obligations.RequestFrame : Prop :=
  ∀ (op : Operation) (sla reg len buf res : Nat) (s t : State), exec (request op sla reg len buf res) s = .next t →
    t.ctx.lastStatusCode = s.ctx.lastStatusCode ∧
    (s.ctx.state = .idle → ∀ a, a ≠ res → t.byteAt a = s.byteAt a) ∧
    (s.ctx.state ≠ .idle → t.ctx = s.ctx ∧ t.bus = s.bus ∧ t.cmds = s.cmds ∧ ∀ a, t.byteAt a = s.byteAt a)

/-- The frame of the event rows and the sequencer rows (rules R41, R122): memory changes only at the element stored to,
`ctx.buffer + ctx.handled_bytes`, and at the result byte of a transaction that ends; `last_status_code` only to the
event's raw status, and only where the transaction ends; no response is given. -/
def Obligations.EventFrame : Prop :=
  ∀ (i : Instr) (status data : Byte) (s t : State), eventOperands i = some (status, data) → exec i s = .next t →
    t.rsp = s.rsp ∧
    (t.ctx.lastStatusCode = s.ctx.lastStatusCode ∨
      (t.ctx.lastStatusCode = status ∧ s.ctx.state ≠ .idle ∧ t.ctx.state = .idle)) ∧
    ∀ a, ¬(storesElement s status ∧ a = s.ctx.buffer + s.ctx.handledBytes) →
      ¬(s.ctx.state ≠ .idle ∧ t.ctx.state = .idle ∧ a = s.ctx.resultSlot) → t.byteAt a = s.byteAt a

/-- The frame of the command, result and response rows, ERROR_CODE and NONE: no register of the context changes; memory
changes only at `ctx.result_slot`, and only by a result row; the bus environment and the command list change only by a
command row, the response only by ERROR_CODE and the response rows. -/
def Obligations.OutputPortFrame : Prop :=
  ∀ (i : Instr) (s t : State), exec i s = .next t →
    ((encode s.cfg i).1 = .cmd → t.ctx = s.ctx ∧ t.rsp = s.rsp ∧ ∀ a, t.byteAt a = s.byteAt a) ∧
    ((encode s.cfg i).1 = .res → t.ctx = s.ctx ∧ t.rsp = s.rsp ∧ t.bus = s.bus ∧ t.cmds = s.cmds ∧
      ∀ a, a ≠ s.ctx.resultSlot → t.byteAt a = s.byteAt a) ∧
    ((∃ answered, (encode s.cfg i).1 = .rsp answered) ∨ i = .errorCode ∨ i = .noRequest →
      t.ctx = s.ctx ∧ t.bus = s.bus ∧ t.cmds = s.cmds ∧ ∀ a, t.byteAt a = s.byteAt a) ∧
    (i = .noRequest → t.rsp = s.rsp)

/-- While the block is busy nothing but a delivered event or a reset writes the context or the bus environment (rule R36),
whatever the foreground does. -/
def Obligations.OnlyEventsWriteABusyContext : Prop :=
  ∀ (s t : State) (a : Act) (rest : List Act), Inv s → s.busy = true → s.agenda = a :: rest → step s = .next t →
    (∀ bits, a ≠ .ev bits) → a ≠ .powerOn → a ≠ .blockReset → t.ctx = s.ctx ∧ t.bus = s.bus

/-- `handled_bytes` counts by ones and only upward (rule R28): an event step keeps it or adds one, and keeps it in `Idle`,
`Start`, `SendSlaveWrite` and `RepeatedStart`. -/
def Obligations.HandledBytesCountsByOne : Prop :=
  ∀ (i : Instr) (status data : Byte) (s t : State), Inv s → eventOperands i = some (status, data) →
    exec i s = .next t →
    (t.ctx.handledBytes = s.ctx.handledBytes ∨ t.ctx.handledBytes = s.ctx.handledBytes + 1) ∧
    (s.ctx.state = .idle ∨ s.ctx.state = .start ∨ s.ctx.state = .sendSlaveWrite ∨ s.ctx.state = .repeatedStart →
      t.ctx.handledBytes = s.ctx.handledBytes)

/-- Every event brings the transaction nearer its end, but for SLAR_ACK in ReadData under the default reading, which leaves
it where it is (rules R117, R125, decision D14; log 27). -/
def Obligations.EventsBringTheEndNearer : Prop :=
  ∀ (s t : State) (status data : Byte), Inv s → s.busy = true → s.bus.pending = true →
    exec (eventInstr status data) s = .next t →
    t.eventsLeft < s.eventsLeft ∨
      (s.ctx.state = .readData ∧ s.cfg.readLiteral = false ∧ categorize s.cfg status = .slarAck ∧
        t.ctx = s.ctx ∧ t.mem = s.mem)

/-! Invariants. -/

/-- The invariant holds at reset. -/
def Obligations.ResetMeetsTheInvariant : Prop :=
  Inv State.reset ∧ Paired State.reset

/-- Every step keeps the invariant of 10_state.md rule R35 (its clause on `bus_pending` apart), with the registers' widths
and memory's canonical form: whatever is scheduled, misuse and resets included. -/
def Obligations.StepKeepsTheInvariant : Prop :=
  ∀ s t : State, Inv s → step s = .next t → Inv t

/-- Every step of a schedule without a mid-transaction reset keeps `bus_pending` equal to busy (rules R35, R128). -/
def Obligations.StepKeepsPendingPairedWithBusy : Prop :=
  ∀ s t : State, Paired s → step s = .next t → Paired t

/-- In a good state the machine stops only where the spec says so, each stop with its cause at the schedule's head: a hazard
of the foreground, its access outside valid memory, an event that is not pending, a word wider than its port, or a request
in `Idle` that rule R86 refuses. Every other load and store of the foreground goes on, while busy too. In particular no event
step is ever stuck or refused (rules R51, R129, R173). That an event not pending is a fault is log 17, that an access outside
valid memory is one log 13; the foreground's store is log 34. -/
def Obligations.GoodStatesStopOnlyByTheOutside : Prop :=
  ∀ s : State, Inv s →
    (∀ f, step s = .fault f → ∃ act rest, s.agenda = act :: rest ∧ FaultCause s act f) ∧
    (∀ r, step s = .refused r → ∃ act rest, s.agenda = act :: rest ∧ RefusalCause s act r) ∧
    (∀ a rest, s.agenda = .ldb a :: rest → validAddr s.cfg a = true → ¬Borrowed s a →
      step s = .next { s with agenda := rest, cmds := [], rsp := none, seen := some (s.byteAt a) }) ∧
    ∀ a v rest, s.agenda = .stb a v :: rest → validAddr s.cfg a = true → ¬Borrowed s a → ¬ResultByteInUse s a →
      step s = .next { s with agenda := rest, cmds := [], rsp := none, seen := none, mem := s.mem.write a v }

/-! Whole transactions on a conforming bus. -/

/-- A WriteRegister transaction of length `len` with every byte acknowledged (rules R126, R150, R151): after the accepted
request, `len + 3` events; the commands, in order, are SLA+W, the register byte, the `len` payload bytes, STOP; the block
is idle, the result byte RES_OK, and no other byte of memory has changed. -/
def Obligations.ConformingWriteTransaction : Prop :=
  ∀ (s : State) (sla reg len buf res : Nat) (acks : List Bool) (rx : List Byte) (any : Byte),
    DefaultReading s → s.mem.wf = true → s.ctx.state = .idle → Admitted s.cfg sla reg len buf res →
    ∃ u, exec (.writeRegister sla reg len buf res) s = .next (afterAccept .writeRegister sla reg len buf res s) ∧
      conformRun (len + 3) ⟨List.replicate (len + 2) true ++ acks, rx, any⟩
          (afterAccept .writeRegister sla reg len buf res s) =
        some (u,
          [.send (slaW (BitVec.ofNat 7 sla)), .send (BitVec.ofNat 8 reg)] ++
            (List.range len).map (fun i => .send (s.byteAt (buf + i))) ++ [.stop],
          ⟨acks, rx, any⟩) ∧
      u.ctx.state = .idle ∧ u.bus.pending = false ∧ u.ctx.handledBytes = len ∧ u.byteAt res = 0x00 ∧
      u.ctx.lastStatusCode = s.ctx.lastStatusCode ∧ ∀ a, a ≠ res → u.byteAt a = s.byteAt a

/-- A ReadRegister transaction of `len > 0` bytes in which every step gets its expected category (rules R127, R150, R151):
`len + 5` events; SLA+W, register byte, repeated START, SLA+R, `len - 1` times ARM_ACK, one ARM_NACK, STOP; the bytes
received stand in the buffer in order, the result byte is RES_OK, and no other byte has changed. -/
def Obligations.ConformingReadTransaction : Prop :=
  ∀ (s : State) (sla reg len buf res : Nat) (acks : List Bool) (received rx : List Byte) (any : Byte),
    DefaultReading s → s.mem.wf = true → s.ctx.state = .idle → Admitted s.cfg sla reg len buf res → 0 < len →
    received.length = len →
    ∃ u, exec (.readRegister sla reg len buf res) s = .next (afterAccept .readRegister sla reg len buf res s) ∧
      conformRun (len + 5) ⟨[true, true, true] ++ acks, received ++ rx, any⟩
          (afterAccept .readRegister sla reg len buf res s) =
        some (u,
          [.send (slaW (BitVec.ofNat 7 sla)), .send (BitVec.ofNat 8 reg), .repstart,
            .send (slaR (BitVec.ofNat 7 sla))] ++ List.replicate (len - 1) .armAck ++ [.armNack, .stop],
          ⟨acks, rx, any⟩) ∧
      u.ctx.state = .idle ∧ u.bus.pending = false ∧ u.ctx.handledBytes = len ∧ u.byteAt res = 0x00 ∧
      (∀ i, i < len → some (u.byteAt (buf + i)) = received[i]?) ∧
      ∀ a, a ≠ res → ¬(buf ≤ a ∧ a < buf + len) → u.byteAt a = s.byteAt a

/-- A zero-length transaction of either shape (rules R87, R114, R127): three events, no data byte, no repeated START. -/
def Obligations.ZeroLengthTransaction : Prop :=
  ∀ (s : State) (op : Operation) (sla reg buf res : Nat) (acks : List Bool) (rx : List Byte) (any : Byte),
    DefaultReading s → s.mem.wf = true → s.ctx.state = .idle → Admitted s.cfg sla reg 0 buf res →
    ∃ u, exec (request op sla reg 0 buf res) s = .next (afterAccept op sla reg 0 buf res s) ∧
      conformRun 3 ⟨[true, true] ++ acks, rx, any⟩ (afterAccept op sla reg 0 buf res s) =
        some (u, [.send (slaW (BitVec.ofNat 7 sla)), .send (BitVec.ofNat 8 reg), .stop], ⟨acks, rx, any⟩) ∧
      u.ctx.state = .idle ∧ u.byteAt res = 0x00 ∧ ∀ a, a ≠ res → u.byteAt a = s.byteAt a
end

