-- ==== Sys2Proof/Laws/PerInstr.lean ====
section
/-! SUPPORT. A statement for every instruction as syntax, one lemma per constructor: its encoding fits the format of its
port (30_encoding.md rule R60). -/

namespace Sys2Proof.Laws.FitsFormat

open Sys2Proof

/-- A well-formed instruction's word has no bit outside its format, whatever the parameters. -/
def Statement (i : Instr) : Prop :=
  ∀ cfg : Config, i.wf cfg = true → (encode cfg i).2 < 2 ^ portWidth cfg (encode cfg i).1

theorem writeRegister (sla reg len buf res : Nat) : Statement (.writeRegister sla reg len buf res) := fun _ h => encodeReq_lt (by norm_num) h
theorem readRegister (sla reg len buf res : Nat) : Statement (.readRegister sla reg len buf res) := fun _ h => encodeReq_lt (by norm_num) h
theorem errorCode : Statement .errorCode := fun _ _ => small_fits_req (n := 3) (by norm_num)
theorem noRequest : Statement .noRequest := fun _ _ => small_fits_req (n := 0) (by norm_num)
theorem evStartSent (low : BitVec 3) (data : Byte) : Statement (.evStartSent low data) := fun _ _ => encodeEv_lt _ _
theorem evRepstartSent (low : BitVec 3) (data : Byte) : Statement (.evRepstartSent low data) := fun _ _ => encodeEv_lt _ _
theorem evSlawAck (low : BitVec 3) (data : Byte) : Statement (.evSlawAck low data) := fun _ _ => encodeEv_lt _ _
theorem evSlawNack (low : BitVec 3) (data : Byte) : Statement (.evSlawNack low data) := fun _ _ => encodeEv_lt _ _
theorem evDataTxAck (low : BitVec 3) (data : Byte) : Statement (.evDataTxAck low data) := fun _ _ => encodeEv_lt _ _
theorem evDataTxNack (low : BitVec 3) (data : Byte) : Statement (.evDataTxNack low data) := fun _ _ => encodeEv_lt _ _
theorem evArbLost (low : BitVec 3) (data : Byte) : Statement (.evArbLost low data) := fun _ _ => encodeEv_lt _ _
theorem evSlarAck (low : BitVec 3) (data : Byte) : Statement (.evSlarAck low data) := fun _ _ => encodeEv_lt _ _
theorem evSlarNack (low : BitVec 3) (data : Byte) : Statement (.evSlarNack low data) := fun _ _ => encodeEv_lt _ _
theorem evDataRxAck (low : BitVec 3) (data : Byte) : Statement (.evDataRxAck low data) := fun _ _ => encodeEv_lt _ _
theorem evDataRxNack (low : BitVec 3) (data : Byte) : Statement (.evDataRxNack low data) := fun _ _ => encodeEv_lt _ _
theorem evOther (status data : Byte) : Statement (.evOther status data) := fun _ _ => encodeEv_lt _ _
theorem stepIdle (status data : Byte) : Statement (.stepIdle status data) := fun _ _ => encodeState_lt _ _ _
theorem stepStart (status data : Byte) : Statement (.stepStart status data) := fun _ _ => encodeState_lt _ _ _
theorem stepSendSlaveWrite (status data : Byte) : Statement (.stepSendSlaveWrite status data) := fun _ _ => encodeState_lt _ _ _
theorem stepWriteRegisterAddress (status data : Byte) : Statement (.stepWriteRegisterAddress status data) := fun _ _ => encodeState_lt _ _ _
theorem stepWriteData (status data : Byte) : Statement (.stepWriteData status data) := fun _ _ => encodeState_lt _ _ _
theorem stepRepeatedStart (status data : Byte) : Statement (.stepRepeatedStart status data) := fun _ _ => encodeState_lt _ _ _
theorem stepReadSlarAck (status data : Byte) : Statement (.stepReadSlarAck status data) := fun _ _ => encodeState_lt _ _ _
theorem stepReadByte (status data : Byte) : Statement (.stepReadByte status data) := fun _ _ => encodeState_lt _ _ _
theorem stepReadOther (status data : Byte) : Statement (.stepReadOther status data) := fun _ _ => encodeState_lt _ _ _
theorem stepReadLiteral (status data : Byte) : Statement (.stepReadLiteral status data) := fun _ _ => encodeState_lt _ _ _
theorem stepUnused (status data : Byte) : Statement (.stepUnused status data) := fun _ _ => encodeState_lt _ _ _
theorem cmdStart : Statement .cmdStart := fun _ _ => encodeCmd_lt .start
theorem cmdRepstart : Statement .cmdRepstart := fun _ _ => encodeCmd_lt .repstart
theorem cmdSend (b : Byte) : Statement (.cmdSend b) := fun _ _ => encodeCmd_lt (.send b)
theorem cmdArmAck : Statement .cmdArmAck := fun _ _ => encodeCmd_lt .armAck
theorem cmdArmNack : Statement .cmdArmNack := fun _ _ => encodeCmd_lt .armNack
theorem cmdStop : Statement .cmdStop := fun _ _ => encodeCmd_lt .stop
theorem cmdUnused0 : Statement .cmdUnused0 := fun _ _ => by norm_num [encode, portWidth]
theorem cmdUnused7 : Statement .cmdUnused7 := fun _ _ => by norm_num [encode, portWidth]
theorem resOk : Statement .resOk := fun _ _ => by norm_num [encode, portWidth]
theorem resInProgress : Statement .resInProgress := fun _ _ => by norm_num [encode, portWidth]
theorem resStartConditionError : Statement .resStartConditionError := fun _ _ => by norm_num [encode, portWidth]
theorem resAddressError : Statement .resAddressError := fun _ _ => by norm_num [encode, portWidth]
theorem resRegisterWriteError : Statement .resRegisterWriteError := fun _ _ => by norm_num [encode, portWidth]
theorem resDataWriteError : Statement .resDataWriteError := fun _ _ => by norm_num [encode, portWidth]
theorem resRepeatedStartError : Statement .resRepeatedStartError := fun _ _ => by norm_num [encode, portWidth]
theorem resDataReadError : Statement .resDataReadError := fun _ _ => by norm_num [encode, portWidth]
theorem rspAccepted : Statement .rspAccepted := fun _ _ => by norm_num [encode, portWidth]
theorem rspBusy : Statement .rspBusy := fun _ _ => by norm_num [encode, portWidth]

end Sys2Proof.Laws.FitsFormat
end

