-- ==== Sys2Proof/Tests/Slice0.lean ====
section
/-! SUPPORT. The model's own tests. Words, and expected results named Q-, I-, S-, A-, R-, W-, P-, D-, T-, X-, B- and H-, are
those of spec/95_test_vectors.md (the section is given); the rest are written out from the rule named. Then one witness for
every statement that has hypotheses. -/

open Sys2Proof Sys2Proof.Machine Sys2Proof.Claims

namespace Sys2Proof.Tests

/-! Well-formedness: an ill-formed term for each check, refused (30_encoding.md rules R61, R65; 42_sequencer.md R110). -/

theorem test_wf_refuses_wide_slave : Instr.wf defaultConfig (.writeRegister 0x80 0 0 0 0) = false := by decide
theorem test_wf_refuses_wide_register : Instr.wf defaultConfig (.writeRegister 0 0x100 0 0 0) = false := by decide
theorem test_wf_refuses_wide_length : Instr.wf defaultConfig (.readRegister 0 0 0x100 0 0) = false := by decide
theorem test_wf_refuses_wide_buffer : Instr.wf defaultConfig (.readRegister 0 0 0 0x10000 0) = false := by decide
theorem test_wf_refuses_wide_slot : Instr.wf defaultConfig (.readRegister 0 0 0 0 0x10000) = false := by decide
theorem test_wf_refuses_listed_other : Instr.wf defaultConfig (.evOther 0x5F 0) = false := by decide
theorem test_wf_refuses_slar_row : Instr.wf defaultConfig (.stepReadSlarAck 0x50 0) = false := by decide
theorem test_wf_refuses_byte_row : Instr.wf defaultConfig (.stepReadByte 0x40 0) = false := by decide
theorem test_wf_refuses_other_row : Instr.wf defaultConfig (.stepReadOther 0x58 0) = false := by decide
theorem test_wf_refuses_literal_row : Instr.wf defaultConfig (.stepReadLiteral 0x50 0) = false := by decide

/-! Decoding, words written out from the spec. -/

/-- REQ words of programs P1 and P2 (section 3), of rule R62's op codes 3 and 0, the operands of op 3 ignored. -/
theorem test_decode_req :
    decode defaultConfig .req 0x00260024006D7A1 = .ok (.writeRegister 0x68 0x6B 3 0x0120 0x0130) ∧
    decode defaultConfig .req 0x002A002800477A2 = .ok (.readRegister 0x68 0x3B 2 0x0140 0x0150) ∧
    decode defaultConfig .req 0x004000200042143 = .ok .errorCode ∧
    decode defaultConfig .req 0 = .ok .noRequest :=
  ⟨rfl, rfl, rfl, rfl⟩

/-- EV words: data << 8 | status (rule R64), the codes of 41_status_decoder.md rules R92 to R97. -/
theorem test_decode_ev_low_codes :
    decode defaultConfig .ev 0x000B = .ok (.evStartSent 3 0) ∧
    decode defaultConfig .ev 0x0010 = .ok (.evRepstartSent 0 0) ∧
    decode defaultConfig .ev 0x001A = .ok (.evSlawAck 2 0) ∧
    decode defaultConfig .ev 0x0023 = .ok (.evSlawNack 3 0) ∧
    decode defaultConfig .ev 0x002C = .ok (.evDataTxAck 4 0) ∧
    decode defaultConfig .ev 0x0037 = .ok (.evDataTxNack 7 0) :=
  ⟨rfl, rfl, rfl, rfl, rfl, rfl⟩

/-- EV words of rules R98 to R103. -/
theorem test_decode_ev_high_codes :
    decode defaultConfig .ev 0x003A = .ok (.evArbLost 2 0) ∧
    decode defaultConfig .ev 0x0041 = .ok (.evSlarAck 1 0) ∧
    decode defaultConfig .ev 0x004F = .ok (.evSlarNack 7 0) ∧
    decode defaultConfig .ev 0x1150 = .ok (.evDataRxAck 0 0x11) ∧
    decode defaultConfig .ev 0x775F = .ok (.evDataRxNack 7 0x77) ∧
    decode defaultConfig .ev 0x12C9 = .ok (.evOther 0xC9 0x12) :=
  ⟨rfl, rfl, rfl, rfl, rfl, rfl⟩

/-- CMD words: byte << 3 | code (rule R67). -/
theorem test_decode_cmd :
    decode defaultConfig .cmd 0x000 = .ok .cmdUnused0 ∧
    decode defaultConfig .cmd 0x001 = .ok .cmdStart ∧
    decode defaultConfig .cmd 0x002 = .ok .cmdRepstart ∧
    decode defaultConfig .cmd 0x50B = .ok (.cmdSend 0xA1) ∧
    decode defaultConfig .cmd 0x004 = .ok .cmdArmAck ∧
    decode defaultConfig .cmd 0x005 = .ok .cmdArmNack ∧
    decode defaultConfig .cmd 0x006 = .ok .cmdStop ∧
    decode defaultConfig .cmd 0x007 = .ok .cmdUnused7 :=
  ⟨rfl, rfl, rfl, rfl, rfl, rfl, rfl, rfl⟩

/-- RES and RSP values (rules R63, R68), and the readings of the values that are no row (rules R70, R71). -/
theorem test_decode_res_rsp :
    (List.range 8).map (fun b => (decode defaultConfig .res b).toOption) =
      [some .resOk, some .resInProgress, some .resStartConditionError, some .resAddressError,
       some .resRegisterWriteError, some .resDataWriteError, some .resRepeatedStartError, some .resDataReadError] ∧
    readPort defaultConfig .res 0xFF = .resultNeverWritten 0xFF ∧
    decode defaultConfig (.rsp .transaction) 0 = .ok .rspAccepted ∧
    decode defaultConfig (.rsp .transaction) 1 = .ok .rspBusy ∧
    readPort defaultConfig (.rsp .transaction) 2 = .responseNeverProduced 2 ∧
    readPort defaultConfig (.rsp .errorCode) 0x20 = .statusResponse 0x20 :=
  ⟨rfl, rfl, rfl, rfl, rfl, rfl⟩

/-- STATE words: the code of 10_state.md rule R22, then the event's status and data (log 9). -/
theorem test_decode_state :
    decode defaultConfig .state 0x00000 = .ok (.stepIdle 0 0) ∧
    decode defaultConfig .state (1 + 0x08 * 8) = .ok (.stepStart 0x08 0) ∧
    decode defaultConfig .state (2 + 0x18 * 8) = .ok (.stepSendSlaveWrite 0x18 0) ∧
    decode defaultConfig .state (3 + 0x28 * 8) = .ok (.stepWriteRegisterAddress 0x28 0) ∧
    decode defaultConfig .state (4 + 0x28 * 8) = .ok (.stepWriteData 0x28 0) ∧
    decode defaultConfig .state (5 + 0x10 * 8) = .ok (.stepRepeatedStart 0x10 0) ∧
    decode defaultConfig .state (7 + 0x10 * 8) = .ok (.stepUnused 0x10 0) :=
  ⟨rfl, rfl, rfl, rfl, rfl, rfl, rfl⟩

/-- ReadData's four rows (42_sequencer.md rules R117 to R119, R123). -/
theorem test_decode_state_read :
    decode defaultConfig .state (6 + 0x40 * 8) = .ok (.stepReadSlarAck 0x40 0) ∧
    decode defaultConfig .state (6 + 0x50 * 8 + 0x11 * 2048) = .ok (.stepReadByte 0x50 0x11) ∧
    decode defaultConfig .state (6 + 0x48 * 8) = .ok (.stepReadOther 0x48 0) ∧
    decode { defaultConfig with readLiteral := true } .state (6 + 0x40 * 8 + 0x99 * 2048) =
      .ok (.stepReadLiteral 0x40 0x99) :=
  ⟨rfl, rfl, rfl, rfl⟩

/-- One bit above each input format is no item of it (rule R60). -/
theorem test_decode_refuses_wide_words :
    decode defaultConfig .req (2 ^ 57) = .error (.wordTooWide .req) ∧
    decode defaultConfig .ev 0x10000 = .error (.wordTooWide .ev) ∧
    decode defaultConfig .cmd 0x800 = .error (.wordTooWide .cmd) := by
  decide

/-- Words by the table's numbering (log 7). -/
theorem test_table_words :
    decodeTableWord 8 1 = some (.writeRegister 0 0 0 0 0) ∧ decodeTableWord 8 2 = some (.readRegister 0 0 0 0 0) ∧
    decodeTableWord 8 3 = some .errorCode ∧ decodeTableWord 8 0x48 = some (.evSlarNack 0 0) ∧
    decodeTableWord 16 0x3358 = some (.evDataRxNack 0 0x33) ∧ decodeTableWord 8 6 = some (.evOther 6 0) :=
  ⟨rfl, rfl, rfl, rfl, rfl, rfl⟩

/-! One step on a small state. -/

/-- The start context of 95_test_vectors.md section 2.3: slave 0x50, register 0x10, buffer 0x0100, result byte 0x0200 in
progress, an event pending, the two payload bytes in memory. -/
def during (q : SeqState) (op : Operation) (len h : Nat) : State where
  cfg := defaultConfig
  ctx :=
    { state := q, operation := op, slaveAddress := 0x50, dataRegister := 0x10, buffer := 0x0100, bufferLength := len,
      handledBytes := h, resultSlot := 0x0200, lastStatusCode := 0x00 }
  bus := { pending := true, last := none, before := none }
  mem := [(0x0100, 0xAA), (0x0101, 0xBB), (0x0200, 0x01)]
  agenda := []
  cmds := []
  rsp := none
  seen := none

/-- The same in the literal reading. -/
def duringLiteral (len h : Nat) : State :=
  { during .readData .readRegister len h with cfg := { defaultConfig with readLiteral := true } }

/-- `s` with one schedule entry. -/
def doing (s : State) (a : Act) : State :=
  { s with agenda := [a] }

/-- The columns of section 2.3: commands, state, handled_bytes, result byte, last_status_code. -/
def columns (o : Result) : Option (List Cmd × SeqState × Nat × Byte × Byte) :=
  (nextOf o).map fun t => (t.cmds, t.ctx.state, t.ctx.handledBytes, t.byteAt 0x0200, t.ctx.lastStatusCode)

/-- The byte at `a` after. -/
def byteAfter (o : Result) (a : Nat) : Option Byte :=
  (nextOf o).map fun t => t.byteAt a

/-- One EV word delivered. -/
def ev (s : State) (word : Nat) : Result :=
  step (doing s (.ev word))

/-! The request port (section 2.2). -/

theorem test_q1_write_register :
    (nextOf (step (doing State.reset (.req 0x004000200042141)))).map
        (fun t => (t.rsp, t.cmds, t.ctx.state, t.ctx.operation, t.byteAt 0x0200)) =
      some (some 0x00, [.start], .start, .writeRegister, 0x01) := by
  decide

theorem test_q4_write_register_busy :
    (nextOf (step (doing (during .writeData .writeRegister 2 1) (.wr 0x51 0x00 0x0300 1 0x0301)))).map
        (fun t => (t.rsp, t.cmds, t.ctx.handledBytes, t.mem)) =
      some (some 0x01, [], 1, [(0x0100, 0xAA), (0x0101, 0xBB), (0x0200, 0x01)]) := by
  decide

theorem test_q2_read_register :
    (nextOf (step (doing State.reset (.req 0x004000200064142)))).map
        (fun t => (t.rsp, t.cmds, t.ctx.state, t.ctx.operation, t.ctx.bufferLength)) =
      some (some 0x00, [.start], .start, .readRegister, 3) := by
  decide

theorem test_q13_buffer_would_wrap :
    refusalOf (step (doing State.reset (.rd 0x50 0x10 0xFFFF 2 0x0200))) = some .regionNotValid := by
  decide

theorem test_q6_error_code :
    (nextOf (step (doing { State.reset with ctx := { Context.zero with lastStatusCode := 0x20 } }
        (.req 3)))).map (fun t => (t.rsp, t.ctx.lastStatusCode)) = some (some 0x20, 0x20) := by
  decide

theorem test_q10_none : (nextOf (step (doing State.reset (.req 0)))) = some State.reset := by decide

/-! The bus-event port: section 2.3's vectors, each row of the table with its raw word. -/

theorem test_s1_start_sent :
    columns (ev (during .start .writeRegister 2 0) 0x0008) = some ([.send 0xA0], .sendSlaveWrite, 0, 0x01, 0x00) := by
  decide
theorem test_s5_start_sent_low_bits :
    columns (ev (during .start .writeRegister 2 0) 0x000B) = some ([.send 0xA0], .sendSlaveWrite, 0, 0x01, 0x00) := by
  decide
theorem test_p1_repstart_sent :
    columns (ev (during .repeatedStart .readRegister 3 0) 0x0010) = some ([.send 0xA1], .readData, 0, 0x01, 0x00) := by
  decide
theorem test_s2_repstart_sent_in_start :
    columns (ev (during .start .writeRegister 2 0) 0x0010) = some ([.stop], .idle, 0, 0x02, 0x10) := by
  decide
theorem test_a1_slaw_ack :
    columns (ev (during .sendSlaveWrite .writeRegister 2 0) 0x0018) =
      some ([.send 0x10], .writeRegisterAddress, 0, 0x01, 0x00) := by
  decide
theorem test_r7_slaw_ack_late :
    columns (ev (during .writeRegisterAddress .writeRegister 2 0) 0x0018) = some ([.stop], .idle, 0, 0x04, 0x18) := by
  decide
theorem test_a2_slaw_nack :
    columns (ev (during .sendSlaveWrite .writeRegister 2 0) 0x0020) = some ([.stop], .idle, 0, 0x03, 0x20) := by
  decide
theorem test_a3_slaw_nack_raw :
    columns (ev (during .sendSlaveWrite .writeRegister 2 0) 0x0022) = some ([.stop], .idle, 0, 0x03, 0x22) := by
  decide
theorem test_r1_data_tx_ack :
    columns (ev (during .writeRegisterAddress .writeRegister 2 0) 0x0028) =
      some ([.send 0xAA], .writeData, 1, 0x01, 0x00) := by
  decide
theorem test_w1_data_tx_ack :
    columns (ev (during .writeData .writeRegister 2 1) 0x0028) = some ([.send 0xBB], .writeData, 2, 0x01, 0x00) := by
  decide
theorem test_r5_data_tx_nack :
    columns (ev (during .writeRegisterAddress .writeRegister 2 0) 0x0030) = some ([.stop], .idle, 0, 0x04, 0x30) := by
  decide
theorem test_w4_data_tx_nack_of_last :
    columns (ev (during .writeData .writeRegister 2 2) 0x0030) = some ([.stop], .idle, 2, 0x05, 0x30) := by
  decide
theorem test_d11_arb_lost :
    columns (ev (during .readData .readRegister 3 1) 0x0038) = some ([.stop], .idle, 1, 0x07, 0x38) := by
  decide
theorem test_s3_arb_lost :
    columns (ev (during .start .writeRegister 2 0) 0x0038) = some ([.stop], .idle, 0, 0x02, 0x38) := by
  decide
theorem test_d2_slar_ack :
    columns (ev (during .readData .readRegister 1 0) 0x0040) = some ([.armNack], .readData, 0, 0x01, 0x00) := by
  decide
theorem test_t1_slar_ack_literal :
    byteAfter (ev (duringLiteral 3 0) 0x9940) 0x0100 = some 0x99 := by
  decide
theorem test_d10_slar_nack :
    columns (ev (during .readData .readRegister 3 0) 0x0048) = some ([.stop], .idle, 0, 0x07, 0x48) := by
  decide
theorem test_t5_slar_nack_literal :
    columns (ev (duringLiteral 3 1) 0x0048) = some ([.stop], .idle, 1, 0x07, 0x48) := by
  decide
theorem test_d5_data_rx_ack :
    columns (ev (during .readData .readRegister 3 1) 0x2250) = some ([.armNack], .readData, 2, 0x01, 0x00) := by
  decide
theorem test_d9_data_rx_ack_last :
    columns (ev (during .readData .readRegister 3 2) 0x6650) = some ([.stop], .idle, 3, 0x00, 0x00) := by
  decide
theorem test_d8_data_rx_nack_early :
    columns (ev (during .readData .readRegister 3 0) 0x5558) = some ([.armAck], .readData, 1, 0x01, 0x00) := by
  decide
theorem test_d6_data_rx_nack_stored :
    byteAfter (ev (during .readData .readRegister 3 2) 0x3358) 0x0102 = some 0x33 := by
  decide
theorem test_s6_other :
    columns (ev (during .start .writeRegister 2 0) 0x00F8) = some ([.stop], .idle, 0, 0x02, 0xF8) := by
  decide
theorem test_p4_other :
    columns (ev (during .repeatedStart .readRegister 3 0) 0x0000) = some ([.stop], .idle, 0, 0x06, 0x00) := by
  decide

/-! The sequencer's rows by themselves (sections 2.3, 2.6). -/

theorem test_i2_idle :
    columns (exec (.stepIdle 0x20 0) (during .idle .writeRegister 2 2)) = some ([], .idle, 2, 0x01, 0x00) := by
  decide
theorem test_s4_start :
    columns (exec (.stepStart 0x00 0) (during .start .writeRegister 2 0)) = some ([.stop], .idle, 0, 0x02, 0x00) := by
  decide
theorem test_a5_send_slave_write :
    columns (exec (.stepSendSlaveWrite 0x28 0) (during .sendSlaveWrite .writeRegister 2 0)) =
      some ([.stop], .idle, 0, 0x03, 0x28) := by
  decide
theorem test_r2_write_register_address :
    columns (exec (.stepWriteRegisterAddress 0x28 0) (during .writeRegisterAddress .readRegister 3 0)) =
      some ([.repstart], .repeatedStart, 0, 0x01, 0x00) := by
  decide
theorem test_r4_write_register_address_zero :
    columns (exec (.stepWriteRegisterAddress 0x28 0) (during .writeRegisterAddress .readRegister 0 0)) =
      some ([.stop], .idle, 0, 0x00, 0x00) := by
  decide
theorem test_w2_write_data :
    columns (exec (.stepWriteData 0x28 0) (during .writeData .writeRegister 2 2)) =
      some ([.stop], .idle, 2, 0x00, 0x00) := by
  decide
theorem test_w5_write_data :
    columns (exec (.stepWriteData 0x38 0) (during .writeData .writeRegister 2 1)) =
      some ([.stop], .idle, 1, 0x05, 0x38) := by
  decide
theorem test_p2_repeated_start :
    columns (exec (.stepRepeatedStart 0x08 0) (during .repeatedStart .readRegister 3 0)) =
      some ([.stop], .idle, 0, 0x06, 0x08) := by
  decide
theorem test_d13_read_slar_ack :
    columns (exec (.stepReadSlarAck 0x40 0) (during .readData .readRegister 3 1)) =
      some ([.armAck], .readData, 1, 0x01, 0x00) := by
  decide
theorem test_d14_read_byte :
    columns (exec (.stepReadByte 0x5F 0x77) (during .readData .readRegister 3 1)) =
      some ([.armNack], .readData, 2, 0x01, 0x00) := by
  decide
theorem test_d12_read_other :
    columns (exec (.stepReadOther 0x28 0) (during .readData .readRegister 3 1)) =
      some ([.stop], .idle, 1, 0x07, 0x28) := by
  decide
theorem test_t3_read_literal :
    columns (exec (.stepReadLiteral 0x50 0x22) (duringLiteral 3 2)) = some ([.armNack, .stop], .idle, 3, 0x00, 0x00) := by
  decide
theorem test_t4_read_literal :
    byteAfter (exec (.stepReadLiteral 0x40 0xA1) (duringLiteral 1 0)) 0x0100 = some 0xA1 := by
  decide
theorem test_unused_state : refusalOf (exec (.stepUnused 0x08 0) (during .unused7 .writeRegister 2 0)) =
    some .stateEncodingUnused := by
  decide

/-! Commands (section 2.5), result codes and responses. -/

/-- The pending bit and the last command after. -/
def busAfter (o : Result) : Option (Bool × Option Cmd) :=
  (nextOf o).map fun t => (t.bus.pending, t.bus.last)

theorem test_b1_start : busAfter (exec .cmdStart State.reset) = some (true, some .start) := by decide
theorem test_b3_repstart : busAfter (exec .cmdRepstart State.reset) = some (true, some .repstart) := by decide
theorem test_b3_send : busAfter (exec (.cmdSend 0xAA) State.reset) = some (true, some (.send 0xAA)) := by decide
theorem test_b3_arm_ack : busAfter (exec .cmdArmAck State.reset) = some (true, some .armAck) := by decide
theorem test_b3_arm_nack : busAfter (exec .cmdArmNack State.reset) = some (true, some .armNack) := by decide
theorem test_b4_stop : busAfter (exec .cmdStop (during .start .writeRegister 0 0)) = some (false, some .stop) := by decide
theorem test_unused_commands :
    refusalOf (exec .cmdUnused0 State.reset) = some .commandCodeUnused ∧
    refusalOf (exec .cmdUnused7 State.reset) = some .commandCodeUnused := by
  decide
theorem test_result_codes :
    [Instr.resOk, .resInProgress, .resStartConditionError, .resAddressError, .resRegisterWriteError,
      .resDataWriteError, .resRepeatedStartError, .resDataReadError].map
        (fun i => byteAfter (exec i (during .start .writeRegister 0 0)) 0x0200) =
      [some 0, some 1, some 2, some 3, some 4, some 5, some 6, some 7] := by
  decide
theorem test_responses :
    (nextOf (exec .rspAccepted State.reset)).map State.rsp = some (some 0x00) ∧
    (nextOf (exec .rspBusy State.reset)).map State.rsp = some (some 0x01) := by
  decide

/-! The foreground, the environment and the resets (sections 2.5, 2.7, 2.8). -/

theorem test_h1_buffer_read :
    faultOf (step (doing (during .writeData .writeRegister 2 1) (.ldb 0x0101))) = some .bufferAccessWhileBusy := by
  decide
theorem test_h2_result_write :
    faultOf (step (doing (during .start .writeRegister 2 0) (.stb 0x0200 0))) =
      some .resultSlotWriteWhileBusy := by
  decide
theorem test_h3_poll :
    (nextOf (step (doing (during .start .writeRegister 2 0) (.ldb 0x0200)))).map State.seen =
      some (some 0x01) := by
  decide
theorem test_b7_no_event_pending : faultOf (ev State.reset 0x0008) = some .noEventPending := by decide
theorem test_x1_power_on :
    (nextOf (step (doing (during .readData .readRegister 3 1) .powerOn))).map
      (fun t => (t.ctx, t.bus.pending, t.byteAt 0x0200)) = some (Context.zero, false, 0x01) := by
  decide
theorem test_x2_mid_reset :
    (nextOf (step (doing (during .sendSlaveWrite .writeRegister 2 0) .blockReset))).map
      (fun t => (t.ctx, t.bus.pending, t.byteAt 0x0200, t.cmds)) = some (Context.zero, true, 0x01, []) := by
  decide
theorem test_x3_stale_event :
    (nextOf (ev { State.reset with bus := { Bus.reset with pending := true } } 0x0018)).map
      (fun t => (t.cmds, t.bus.pending, t.ctx)) = some ([], false, Context.zero) := by
  decide
theorem test_fetch_word_runs_request :
    (nextOf (step (State.reset.withFetchWord 8 1))).map (fun t => (t.rsp, t.ctx.state)) = some (some 0x00, .start) := by
  decide
theorem test_fetch_word_runs_event :
    (nextOf (step (State.reset.withFetchWord 8 0x48))).map (fun t => (t.cmds, t.ctx.state, t.bus.pending)) =
      some ([], .idle, false) := by
  decide
/-- The conforming bus tells an address byte by its direction bit (43_bus_commands.md rule R151). -/
theorem test_conform_answers :
    sendAnswer true 0xA0 true = 0x18 ∧ sendAnswer true 0xA1 true = 0x40 ∧ sendAnswer true 0xA1 false = 0x48 ∧
    sendAnswer true 0xA0 false = 0x20 ∧ sendAnswer false 0xA1 true = 0x28 ∧ sendAnswer false 0xA0 false = 0x30 := by
  decide


/-! Witnesses: for each statement with hypotheses, a state and operands that meet them; for one with several clauses, each
clause, at a boundary of its range. -/

theorem witness_DecodeEncodeAgree :
    Instr.wf defaultConfig (.writeRegister 127 255 255 65535 65535) = true ∧
    Instr.wf defaultConfig (.evOther 0xFF 0xFF) = true ∧ Instr.wf defaultConfig (.stepReadByte 0x5F 0xFF) = true := by
  decide

theorem witness_EncodeDecodeAgreeOnInputs :
    0xFFFF < 2 ^ 16 ∧
    (2 ^ 57 - 3 < 2 ^ (17 + defaultConfig.lenBits + 2 * defaultConfig.addrBits) ∧ (2 ^ 57 - 3) % 4 = 1) ∧
    (2 ^ 57 - 2 < 2 ^ (17 + defaultConfig.lenBits + 2 * defaultConfig.addrBits) ∧ (2 ^ 57 - 2) % 4 = 2) := by
  decide

theorem witness_InputPortsDecodeTotally :
    2 ^ 57 - 1 < 2 ^ portWidth defaultConfig .req ∧ 2 ^ 16 - 1 < 2 ^ portWidth defaultConfig .ev ∧
    2 ^ 11 - 1 < 2 ^ portWidth defaultConfig .cmd ∧ 255 < 2 ^ portWidth defaultConfig .res ∧ 7 ≤ 7 ∧ 8 ≤ 255 ∧
    255 < 2 ^ portWidth defaultConfig (.rsp .errorCode) ∧ 2 ≤ 255 := by
  decide

theorem witness_LowStatusBitsDoNotClassify :
    defaultConfig.statusMask = 0xF8 ∧ (0x58 : Byte) &&& 0xF8 = 0x5F &&& 0xF8 := by
  decide

theorem witness_ArmGivesOneNackLast : 0 < 1 ∧ 254 < 255 ∧ 253 < 255 := by decide

/-- Operands at the ends of their ranges: the longest write, and an empty one at the highest address. -/
theorem admitted_longest : Admitted defaultConfig 0x7F 0xFF 255 0xFF00 0xFFFF where
  slaFits := by decide
  regFits := by decide
  lenFits := by decide
  regionOk := by
    refine ⟨by decide, by decide, fun i hi => ?_⟩
    have h : 0xFF00 + i < 65536 := by omega
    simp [validAddr, defaultConfig]
    exact ⟨decide_eq_true h, h⟩
  slotOk := by decide
  slotApart := by decide

theorem admitted_empty : Admitted defaultConfig 0 0 0 0xFFFF 0xFFFF where
  slaFits := by decide
  regFits := by decide
  lenFits := by decide
  regionOk := ⟨by decide, by decide, fun i hi => absurd hi (by omega)⟩
  slotOk := by decide
  slotApart := by decide

theorem witness_AdmittedRequestIsAccepted :
    State.reset.ctx.state = .idle ∧ Admitted State.reset.cfg 0x7F 0xFF 255 0xFF00 0xFFFF ∧
    Admitted State.reset.cfg 0 0 0 0xFFFF 0xFFFF :=
  ⟨rfl, admitted_longest, admitted_empty⟩

theorem witness_BusyRequestIsRejected :
    (during .start .writeRegister 2 0).ctx.state ≠ .idle ∧ (during .readData .readRegister 2 0).ctx.state ≠ .unused7 := by
  decide

theorem regionOk_of_valid {buf len : Nat} (h : regionValid defaultConfig buf len = true) : RegionOk defaultConfig buf len := by
  simp only [regionValid, Bool.and_eq_true, decide_eq_true_eq, List.all_eq_true, List.mem_range] at h
  exact ⟨h.1.1, h.1.2, h.2⟩

theorem witness_InadmissibleRequestIsRefused :
    State.reset.ctx.state = .idle ∧ (0x80 ≤ 0x80) ∧ (0x7F < 0x80 ∧ 0x100 ≤ 0x100) ∧
    (0x7F < 0x80 ∧ 2 ^ State.reset.cfg.lenBits ≤ 256) ∧
    (255 < 2 ^ State.reset.cfg.lenBits ∧ ¬(RegionOk State.reset.cfg 0xFFFF 2 ∧ validAddr State.reset.cfg 0 = true)) ∧
    ¬(RegionOk State.reset.cfg 0 0 ∧ validAddr State.reset.cfg 0x10000 = true) ∧
    (RegionOk State.reset.cfg 0x0100 4 ∧ validAddr State.reset.cfg 0x0100 = true ∧
      validAddr State.reset.cfg 0x0103 = true ∧ 0x0100 ≤ 0x0100 ∧ 0x0103 < 0x0100 + 4) :=
  ⟨rfl, by decide, by decide, by decide, ⟨by decide, fun h => absurd h.1.2.1 (by decide)⟩, fun h => absurd h.2 (by decide),
    regionOk_of_valid (by decide), by decide, by decide, by decide, by decide⟩

theorem witness_ErrorCodeResponds : (during .writeData .writeRegister 2 1).ctx.state ≠ .unused7 := by decide

theorem witness_UnusedStateIsRefused :
    (during .unused7 .writeRegister 2 0).ctx.state = .unused7 ∧ (during .unused7 .writeRegister 2 0).bus.pending = true := by
  decide

theorem witness_IdleIgnoresEvents :
    State.reset.ctx.state = .idle ∧ State.reset.cfg.spurious ≠ .admittedRepeating := by
  decide

theorem witness_StartRule :
    let s := during .start .writeRegister 2 0
    s.ctx.state = .start ∧ categorize s.cfg 0x0F = .startSent ∧ categorize s.cfg 0x10 ≠ .startSent ∧
      validAddr s.cfg s.ctx.resultSlot = true := by
  decide

theorem witness_SendSlaveWriteRule :
    let s := during .sendSlaveWrite .writeRegister 2 0
    s.ctx.state = .sendSlaveWrite ∧ categorize s.cfg 0x1F = .slawAck ∧ categorize s.cfg 0x20 ≠ .slawAck ∧
      validAddr s.cfg s.ctx.resultSlot = true := by
  decide

theorem witness_WriteRegisterAddressRule :
    let zero := during .writeRegisterAddress .readRegister 0 0
    let write := during .writeRegisterAddress .writeRegister 1 0
    let read := during .writeRegisterAddress .readRegister 255 0
    zero.ctx.state = .writeRegisterAddress ∧ zero.ctx.bufferLength = 0 ∧ categorize zero.cfg 0x28 = .dataTxAck ∧
      validAddr zero.cfg zero.ctx.resultSlot = true ∧
    write.ctx.bufferLength ≠ 0 ∧ write.ctx.operation = .writeRegister ∧ validAddr write.cfg write.ctx.buffer = true ∧
    read.ctx.bufferLength ≠ 0 ∧ read.ctx.operation = .readRegister ∧ categorize read.cfg 0x30 ≠ .dataTxAck := by
  decide

theorem witness_WriteDataRule :
    let more := during .writeData .writeRegister 255 254
    let done := during .writeData .writeRegister 255 255
    more.ctx.state = .writeData ∧ more.ctx.bufferLength < 2 ^ more.cfg.lenBits ∧
      categorize more.cfg 0x2F = .dataTxAck ∧ more.ctx.handledBytes < more.ctx.bufferLength ∧
      validAddr more.cfg (more.ctx.buffer + more.ctx.handledBytes) = true ∧
    done.ctx.state = .writeData ∧ ¬done.ctx.handledBytes < done.ctx.bufferLength ∧
      validAddr done.cfg done.ctx.resultSlot = true ∧ categorize done.cfg 0x30 ≠ .dataTxAck := by
  decide

theorem witness_RepeatedStartRule :
    let s := during .repeatedStart .readRegister 3 0
    s.ctx.state = .repeatedStart ∧ categorize s.cfg 0x17 = .repstartSent ∧ categorize s.cfg 0x08 ≠ .repstartSent ∧
      validAddr s.cfg s.ctx.resultSlot = true := by
  decide

theorem witness_ReadSlarAckRule :
    let s := during .readData .readRegister 1 0
    s.ctx.state = .readData ∧ s.cfg.readLiteral = false ∧ categorize s.cfg 0x47 = .slarAck := by
  decide

theorem witness_ReadByteRule :
    let more := during .readData .readRegister 255 253
    let last := during .readData .readRegister 255 254
    more.ctx.state = .readData ∧ more.cfg.readLiteral = false ∧ categorize more.cfg 0x50 = .dataRxAck ∧
      categorize more.cfg 0x58 = .dataRxNack ∧ more.ctx.bufferLength < 2 ^ more.cfg.lenBits ∧
      more.ctx.handledBytes + 1 < more.ctx.bufferLength ∧
      validAddr more.cfg (more.ctx.buffer + more.ctx.handledBytes) = true ∧
    last.ctx.state = .readData ∧ last.ctx.handledBytes < last.ctx.bufferLength ∧
      last.ctx.handledBytes + 1 = last.ctx.bufferLength ∧
      validAddr last.cfg (last.ctx.buffer + last.ctx.handledBytes) = true ∧
      validAddr last.cfg last.ctx.resultSlot = true := by
  decide

theorem witness_ReadOtherRule :
    let s := during .readData .readRegister 3 0
    s.ctx.state = .readData ∧ s.cfg.readLiteral = false ∧ categorize s.cfg 0x48 ≠ .slarAck ∧
      categorize s.cfg 0x48 ≠ .dataRxAck ∧ categorize s.cfg 0x48 ≠ .dataRxNack ∧
      validAddr s.cfg s.ctx.resultSlot = true := by
  decide

theorem witness_ReadLiteralRule :
    let s := duringLiteral 255 254
    s.ctx.state = .readData ∧ s.cfg.readLiteral = true ∧ validAddr s.cfg s.ctx.resultSlot = true ∧
      categorize s.cfg 0x40 = .slarAck ∧ s.ctx.handledBytes < s.ctx.bufferLength ∧
      s.ctx.bufferLength < 2 ^ s.cfg.lenBits ∧ validAddr s.cfg (s.ctx.buffer + s.ctx.handledBytes) = true ∧
      ¬(categorize s.cfg 0x48 = .slarAck ∨ categorize s.cfg 0x48 = .dataRxAck ∨
        categorize s.cfg 0x48 = .dataRxNack) := by
  decide

theorem witness_SequencerRowsAreExclusive :
    StepRow.readByte ≠ rowOf (during .readData .readRegister 3 0).cfg .readData 0x40 ∧
    StepRow.idle ≠ rowOf (during .start .writeRegister 3 0).cfg .start 0x08 := by
  decide

/-- A platform with no memory at all. -/
def without (s : State) : State :=
  { s with cfg := { s.cfg with regions := [] } }

theorem witness_InvalidMemoryIsStuck :
    (let s := without (during .start .writeRegister 255 0);
      validAddr s.cfg s.ctx.resultSlot = false ∧ s.ctx.state = .start ∧ validAddr s.cfg s.ctx.buffer = false ∧ categorize s.cfg 0x10 ≠ .startSent ∧ categorize s.cfg 0x20 ≠ .slawAck ∧
        categorize s.cfg 0x30 ≠ .dataTxAck ∧ categorize s.cfg 0x28 = .dataTxAck ∧
        categorize s.cfg 0x08 ≠ .repstartSent ∧ categorize s.cfg 0x50 = .dataRxAck ∧
        categorize s.cfg 0x58 = .dataRxNack ∧ categorize s.cfg 0x40 = .slarAck ∧ categorize s.cfg 0x48 = .other) ∧
    (let s := without (during .writeRegisterAddress .readRegister 0 0);
      s.ctx.state = .writeRegisterAddress ∧ s.ctx.bufferLength = 0) ∧
    (let s := without (during .writeRegisterAddress .writeRegister 1 0);
      validAddr s.cfg s.ctx.buffer = false ∧ s.ctx.bufferLength ≠ 0 ∧ s.ctx.operation = .writeRegister) ∧
    (let s := without (during .writeData .writeRegister 255 255);
      s.ctx.state = .writeData ∧ ¬s.ctx.handledBytes < s.ctx.bufferLength) ∧
    (let s := without (during .writeData .writeRegister 255 254);
      validAddr s.cfg (s.ctx.buffer + s.ctx.handledBytes) = false ∧ s.ctx.handledBytes < s.ctx.bufferLength) ∧
    (let s := without (during .readData .readRegister 255 254);
      validAddr s.cfg (s.ctx.buffer + s.ctx.handledBytes) = false ∧ s.ctx.state = .readData ∧
        s.cfg.readLiteral = false ∧ s.ctx.bufferLength ≤ (s.ctx.handledBytes + 1) % 2 ^ s.cfg.lenBits) ∧
    (let s := without (duringLiteral 255 254);
      validAddr s.cfg (s.ctx.buffer + s.ctx.handledBytes) = false ∧ s.ctx.state = .readData ∧
        s.cfg.readLiteral = true ∧ s.ctx.bufferLength ≤ (s.ctx.handledBytes + 1) % 2 ^ s.cfg.lenBits) := by
  decide

theorem witness_EventRowsRunTheSelectedRule :
    (during .start .writeRegister 2 0).bus.pending = true ∧ Instr.evOther 0x60 0 ∈ eventRows 0 0x60 0 ∧
    eventOperands (.evOther 0x60 0) = some (0x60, 0) := by
  decide

/-- The transaction of `during` has its memory for the lengths of section 2.3. -/
theorem during_ready (q : SeqState) (op : Operation) (h : Nat) : (during q op 3 h).MemoryReady :=
  ⟨by show validAddr defaultConfig 0x0200 = true; decide, by show regionValid defaultConfig 0x0100 3 = true; decide, by show inBuffer 0x0100 3 0x0200 = false; decide⟩

theorem witness_EveryEventIsHandled :
    let s := during .readData .readRegister 3 2
    s.bus.pending = true ∧ s.ctx.state ≠ .unused7 ∧ s.MemoryReady ∧ s.ctx.handledBytes < s.ctx.bufferLength ∧
      s.ctx.bufferLength < 2 ^ s.cfg.lenBits ∧ Instr.evDataRxNack 7 0xFF ∈ eventRows 7 0xFF 0xFF :=
  ⟨rfl, by decide, during_ready .readData .readRegister 2, by decide, by decide, by decide⟩

theorem witness_DeliveryNeedsAPendingEvent :
    State.reset.bus.pending = false ∧ State.reset.cfg.spurious = .notAdmitted ∧
    { defaultConfig with spurious := .admittedOnce }.spurious ≠ .notAdmitted ∧
    Instr.evStartSent 0 0 ∈ eventRows 0 0 0 := by
  decide

theorem witness_StaleEventInIdle :
    (during .idle .writeRegister 2 2).ctx.state = .idle ∧ (during .idle .writeRegister 2 2).bus.pending = true ∧
    Instr.evSlawAck 0 0 ∈ eventRows 0 0 0 := by
  decide

theorem witness_DataByteIgnoredUnlessStored : ¬storesElement (during .readData .readRegister 3 1) 0x40 := by
  rintro ⟨-, h⟩
  revert h
  decide

/-- Vector D-11. -/
theorem witness_ErrorCodeAfterAnError :
    let s := during .readData .readRegister 3 1
    s.mem.wf = true ∧ s.ctx.state ≠ .idle ∧
    ∃ t, exec (eventInstr 0x38 0) s = .next t ∧ t.ctx.state = .idle ∧ t.byteAt s.ctx.resultSlot ≠ 0x00 :=
  ⟨rfl, by decide, _, rfl, rfl, by decide⟩

theorem witness_ResultCodesAreWritten : validAddr State.reset.cfg State.reset.ctx.resultSlot = true := by decide

/-- A state in the middle of a read, with any schedule. -/
def reading (agenda : List Act) : State :=
  { during .readData .readRegister 3 1 with agenda := agenda }

/-- The same transaction over: its block idle, its result final, no event pending. -/
def readDone (agenda : List Act) : State :=
  { during .idle .readRegister 3 3 with
    agenda := agenda
    bus := Bus.reset
    mem := [(0x0100, 0xAA), (0x0101, 0xBB)] }

theorem reading_inv (agenda : List Act) : Inv (reading agenda) where
  lenBits := by show 1 ≤ 8; decide
  memWf := rfl
  used := by show SeqState.readData ≠ .unused7; decide
  bufferWidth := by show 0x0100 < 2 ^ 16; decide
  lengthWidth := by show 3 < 2 ^ 8; decide
  slotWidth := by show 0x0200 < 2 ^ 16; decide
  handled := by show 1 ≤ 3; decide
  early := fun h => by rcases h with h | h | h | h <;> cases h
  writing := fun h => by cases h
  reading := fun _ => ⟨rfl, by show 1 ≤ 3; decide⟩
  receiving := fun _ => by show 1 < 3; decide
  ready := fun _ => ⟨(during_ready .readData .readRegister 1).slot, (during_ready .readData .readRegister 1).region,
    (during_ready .readData .readRegister 1).apart⟩
  inProgress := fun _ => rfl

theorem readDone_inv (agenda : List Act) : Inv (readDone agenda) where
  lenBits := by show 1 ≤ 8; decide
  memWf := rfl
  used := by show SeqState.idle ≠ .unused7; decide
  bufferWidth := by show 0x0100 < 2 ^ 16; decide
  lengthWidth := by show 3 < 2 ^ 8; decide
  slotWidth := by show 0x0200 < 2 ^ 16; decide
  handled := by show 3 ≤ 3; decide
  early := fun h => by rcases h with h | h | h | h <;> cases h
  writing := fun h => by cases h
  reading := fun h => by rcases h with h | h <;> cases h
  receiving := fun h => by cases h
  ready := fun h => by cases h
  inProgress := fun h => by cases h

theorem witness_PollingWhileBusy :
    Inv (reading [.ldb 0x0200]) ∧ (reading [.ldb 0x0200]).busy = true ∧
    (reading [.ldb 0x0200]).agenda = .ldb (reading [.ldb 0x0200]).ctx.resultSlot :: [] :=
  ⟨reading_inv _, rfl, rfl⟩

theorem witness_FinalResultMeansIdle :
    Inv (readDone [.ldb 0x0200]) ∧
    ∃ t b, step (readDone [.ldb 0x0200]) = .next t ∧ t.seen = some b ∧ b ≠ 0x01 :=
  ⟨readDone_inv _, _, 0x00, rfl, rfl, by decide⟩

theorem witness_BorrowedMemoryHazards :
    let s := reading [.ldb 0x0100]
    let u := reading [.stb 0x0102 7]
    let v := reading [.stb 0x0200 7]
    s.busy = true ∧ s.ctx.buffer ≤ 0x0100 ∧ 0x0102 < u.ctx.buffer + u.ctx.bufferLength ∧ u.busy = true ∧ v.busy = true ∧
      ¬(v.ctx.buffer ≤ v.ctx.resultSlot ∧ v.ctx.resultSlot < v.ctx.buffer + v.ctx.bufferLength) := by
  decide

theorem witness_StoreThenLoad :
    let s := readDone [.stb 0xFFFF 9, .ldb 0xFFFF]
    s.ctx.state = .idle ∧ s.mem.wf = true ∧ validAddr s.cfg 0xFFFF = true := by
  decide

theorem witness_OutputRowsActInsideTheBlocksSteps :
    Admitted State.reset.cfg 0x7F 0xFF 255 0xFF00 0xFFFF ∧ State.reset.ctx.state = .idle ∧
    (reading []).ctx.state ≠ .idle ∧ (reading []).ctx.state ≠ .unused7 ∧
    eventOperands (.stepReadByte 0x50 0x22) = some (0x50, 0x22) ∧
    ∃ t, exec (.stepReadByte 0x50 0x22) (reading []) = .next t :=
  ⟨admitted_longest, rfl, by decide, by decide, rfl, _, rfl⟩

theorem witness_PowerOnReset : (reading [.powerOn]).agenda = .powerOn :: [] := rfl
theorem witness_MidTransactionReset : (reading [.blockReset]).agenda = .blockReset :: [] := rfl

theorem witness_StepRunsDecodedInstruction :
    (reading [.ev 0x2250]).agenda = [.ev 0x2250] ∧
    decode (reading []).cfg .ev 0x2250 = .ok (.evDataRxAck 0 0x22) ∧
    decode (reading []).cfg .ev 0x10000 = .error (.wordTooWide .ev) :=
  ⟨rfl, rfl, rfl⟩

theorem witness_InstructionsKeepWhatIsNotTheirs :
    (∃ t, exec (.evDataRxAck 0 0x22) (reading []) = .next t) ∧ (reading []).ctx.state ≠ .idle ∧
    ∃ t, exec (.writeRegister 0x7F 0xFF 1 0 1) State.reset = .next t :=
  ⟨⟨_, rfl⟩, by decide, _, rfl⟩

theorem witness_RequestFrame :
    (∃ t, exec (request .readRegister 0x50 0x20 3 0x0100 0x0200) State.reset = .next t) ∧ State.reset.ctx.state = .idle ∧
    (∃ t, exec (request .writeRegister 0x50 0x20 3 0x0100 0x0200) (reading []) = .next t) ∧
    (reading []).ctx.state ≠ .idle :=
  ⟨⟨_, rfl⟩, rfl, ⟨_, rfl⟩, by decide⟩

theorem witness_EventFrame :
    eventOperands (.stepReadByte 0x50 0x22) = some (0x50, 0x22) ∧
    (∃ t, exec (.stepReadByte 0x50 0x22) (reading []) = .next t) ∧ ¬(0x0200 = 0x0100 + 1) :=
  ⟨rfl, ⟨_, rfl⟩, by decide⟩

theorem witness_OutputPortFrame :
    (∃ t, exec .cmdStop State.reset = .next t) ∧ (encode defaultConfig .cmdStop).1 = .cmd ∧
    (∃ t, exec .resDataReadError State.reset = .next t) ∧ (encode defaultConfig .resDataReadError).1 = .res ∧
    (∃ t, exec .rspBusy State.reset = .next t) ∧ (encode defaultConfig .rspBusy).1 = .rsp .transaction ∧
    ∃ t, exec .errorCode State.reset = .next t :=
  ⟨⟨_, rfl⟩, rfl, ⟨_, rfl⟩, rfl, ⟨_, rfl⟩, rfl, _, rfl⟩

theorem witness_OnlyEventsWriteABusyContext :
    Inv (reading [.rd 0x50 0x20 0x0100 3 0x0200]) ∧ (reading []).busy = true ∧
    ∃ t, step (reading [.rd 0x50 0x20 0x0100 3 0x0200]) = .next t :=
  ⟨reading_inv _, rfl, _, rfl⟩

theorem witness_HandledBytesCountsByOne :
    Inv (reading []) ∧ eventOperands (.evDataRxAck 0 0x22) = some (0x50, 0x22) ∧
    (∃ t, exec (.evDataRxAck 0 0x22) (reading []) = .next t) ∧ Inv (readDone []) ∧ (readDone []).ctx.state = .idle ∧
    ∃ t, exec (.stepIdle 0x50 0x22) (readDone []) = .next t :=
  ⟨reading_inv _, rfl, ⟨_, rfl⟩, readDone_inv _, rfl, _, rfl⟩

theorem witness_EventsBringTheEndNearer :
    Inv (reading []) ∧ (reading []).busy = true ∧ (reading []).bus.pending = true ∧
    (∃ t, exec (eventInstr 0x50 0x22) (reading []) = .next t) ∧ ∃ t, exec (eventInstr 0x40 0) (reading []) = .next t :=
  ⟨reading_inv _, rfl, rfl, ⟨_, rfl⟩, _, rfl⟩

theorem witness_StepKeepsTheInvariant :
    Inv (reading [.ev 0x2250, .blockReset]) ∧ ∃ t, step (reading [.ev 0x2250, .blockReset]) = .next t :=
  ⟨reading_inv _, _, rfl⟩

theorem witness_StepKeepsPendingPairedWithBusy :
    Paired (reading [.ev 0x2250]) ∧ ∃ t, step (reading [.ev 0x2250]) = .next t :=
  ⟨⟨reading_inv _, rfl, by decide, by show SpuriousPolicy.notAdmitted ≠ .admittedRepeating; decide⟩, _, rfl⟩

/-- Each stop of the outside in a good state: the hazards at the buffer's ends and at the result byte, addresses just past
memory, an event not pending, words just past their port, and requests refused. -/
theorem witness_GoodStatesStopOnlyByTheOutside :
    (Inv (reading [.ldb 0x0100]) ∧ step (reading [.ldb 0x0100]) = .fault .bufferAccessWhileBusy) ∧
    (Inv (reading [.stb 0x0102 7]) ∧ step (reading [.stb 0x0102 7]) = .fault .bufferAccessWhileBusy) ∧
    (Inv (reading [.stb 0x0200 7]) ∧ step (reading [.stb 0x0200 7]) = .fault .resultSlotWriteWhileBusy) ∧
    (Inv (reading [.ldb 0x10000]) ∧ step (reading [.ldb 0x10000]) = .fault .memoryNotValid) ∧
    (Inv (readDone [.stb 0x10000 7]) ∧ step (readDone [.stb 0x10000 7]) = .fault .memoryNotValid) ∧
    (Inv (readDone [.ev 0x0008]) ∧ step (readDone [.ev 0x0008]) = .fault .noEventPending) ∧
    (Inv (reading [.ev 0x10000]) ∧ step (reading [.ev 0x10000]) = .refused (.undecodable (.wordTooWide .ev))) ∧
    (Inv (readDone [.req (2 ^ 57)]) ∧ step (readDone [.req (2 ^ 57)]) = .refused (.undecodable (.wordTooWide .req))) ∧
    (Inv (readDone [.wr 0x80 0 0 0 0]) ∧ step (readDone [.wr 0x80 0 0 0 0]) = .refused .slaveAddressTooWide) ∧
    (Inv (readDone [.rd 0 0 0 256 0]) ∧ step (readDone [.rd 0 0 0 256 0]) = .refused .operandTooWide) ∧
    Inv (readDone [.req 0x20001]) ∧ step (readDone [.req 0x20001]) = .refused .resultSlotInBuffer :=
  ⟨⟨reading_inv _, rfl⟩, ⟨reading_inv _, rfl⟩, ⟨reading_inv _, rfl⟩, ⟨reading_inv _, rfl⟩, ⟨readDone_inv _, rfl⟩,
    ⟨readDone_inv _, rfl⟩, ⟨reading_inv _, rfl⟩, ⟨readDone_inv _, rfl⟩, ⟨readDone_inv _, rfl⟩, ⟨readDone_inv _, rfl⟩,
    readDone_inv _, rfl⟩

/-- While busy: a load of the result byte and of the byte past the buffer, and a store there, are no stop. -/
theorem witness_GoodStatesStopOnlyByTheOutside_goes_on :
    (Inv (reading [.ldb 0x0200]) ∧ validAddr (reading [.ldb 0x0200]).cfg 0x0200 = true ∧
      ¬Borrowed (reading [.ldb 0x0200]) 0x0200) ∧
    (validAddr (reading [.ldb 0x0103]).cfg 0x0103 = true ∧ ¬Borrowed (reading [.ldb 0x0103]) 0x0103) ∧
    Inv (reading [.stb 0x00FF 7]) ∧ validAddr (reading [.stb 0x00FF 7]).cfg 0x00FF = true ∧
      ¬Borrowed (reading [.stb 0x00FF 7]) 0x00FF ∧ ¬ResultByteInUse (reading [.stb 0x00FF 7]) 0x00FF :=
  ⟨⟨reading_inv _, by decide, by simp only [Borrowed]; decide⟩, ⟨by decide, by simp only [Borrowed]; decide⟩,
    reading_inv _, by decide, by simp only [Borrowed]; decide, by simp only [ResultByteInUse]; decide⟩

theorem reset_default_reading : DefaultReading State.reset := ⟨rfl, rfl, rfl⟩

theorem witness_ConformingWriteTransaction :
    DefaultReading State.reset ∧ State.reset.mem.wf = true ∧ State.reset.ctx.state = .idle ∧
    Admitted State.reset.cfg 0x7F 0xFF 255 0xFF00 0xFFFF :=
  ⟨reset_default_reading, rfl, rfl, admitted_longest⟩

theorem witness_ConformingReadTransaction :
    DefaultReading State.reset ∧ State.reset.mem.wf = true ∧ State.reset.ctx.state = .idle ∧
    Admitted State.reset.cfg 0x7F 0xFF 255 0xFF00 0xFFFF ∧ 0 < 255 ∧
    (List.replicate 255 (0xA5 : Byte)).length = 255 :=
  ⟨reset_default_reading, rfl, rfl, admitted_longest, by decide, List.length_replicate⟩

theorem witness_ZeroLengthTransaction :
    DefaultReading State.reset ∧ State.reset.mem.wf = true ∧ State.reset.ctx.state = .idle ∧
    Admitted State.reset.cfg 0 0 0 0xFFFF 0xFFFF :=
  ⟨reset_default_reading, rfl, rfl, admitted_empty⟩

end Sys2Proof.Tests
end

section
/-!
The framing of the slave address (30_encoding.md rule R66): either address byte is the 7-bit address with the direction
bit appended below it, so its value is twice the address plus that bit.
-/
namespace Sys2Proof

theorem slaW_eq_concat (sla : BitVec 7) : slaW sla = sla.concat false := rfl

theorem slaR_eq_concat (sla : BitVec 7) : slaR sla = sla.concat true := rfl

@[simp] theorem slaW_toNat (sla : BitVec 7) : (slaW sla).toNat = 2 * sla.toNat := by
  rw [slaW_eq_concat, BitVec.toNat_concat, Bool.toNat_false, Nat.add_zero, Nat.mul_comm]

@[simp] theorem slaR_toNat (sla : BitVec 7) : (slaR sla).toNat = 2 * sla.toNat + 1 := by
  rw [slaR_eq_concat, BitVec.toNat_concat, Bool.toNat_true, Nat.mul_comm]

/-- Settles O7: the appended direction bit is bit 0 of the byte's value; rule R66's example 0x50 is computed. -/
theorem addressFraming : Obligations.AddressFraming :=
  ⟨fun sla => ⟨slaW_toNat sla, slaR_toNat sla⟩, by decide, by decide⟩

end Sys2Proof
end

section
/-!
The request port (40_request_api.md rules R81 to R86): both transaction requests are one request step, whose admission
checks are the statements' `Admitted`; the accepting, the busy and the ERROR_CODE step, each with the whole next state.
-/
namespace Sys2Proof

open Sys2Proof.Machine Sys2Proof.Claims

theorem exec_request (op : Operation) (sla reg len buf res : Nat) (s : State) :
    exec (request op sla reg len buf res) s = requestStep op sla reg len buf res s := by
  cases op <;> rfl

theorem regionValid_iff_regionOk {cfg : Config} {buf len : Nat} :
    regionValid cfg buf len = true ↔ RegionOk cfg buf len := by
  simp [regionValid, RegionOk, and_assoc]

theorem inBuffer_eq_false_iff {buf len a : Nat} : inBuffer buf len a = false ↔ ¬(buf ≤ a ∧ a < buf + len) := by
  simp [inBuffer]

/-- The model's checks of rule R86 pass exactly the operands that the statements call admitted. -/
theorem admission_eq_none_iff_admitted {cfg : Config} {sla reg len buf res : Nat} :
    admission cfg sla reg len buf res = none ↔ Admitted cfg sla reg len buf res := by
  rw [admission_eq_none, regionValid_iff_regionOk, inBuffer_eq_false_iff]
  constructor
  · rintro ⟨hsla, hreg, hlen, hregion, hslot, hapart⟩
    exact ⟨hsla, hreg, hlen, hregion, hslot, hapart⟩
  · intro h
    exact ⟨h.slaFits, h.regFits, h.lenFits, h.regionOk, h.slotOk, h.slotApart⟩

/-- Where the result byte is there, accepting gives the state of rules R81 and R82: the model's updates, done in turn, add
up to the record that the statements write out. -/
theorem accept_eq_next_afterAccept {op : Operation} {sla reg len buf res : Nat} {s : State}
    (hslot : validAddr s.cfg res = true) :
    accept op sla reg len buf res s = .next (afterAccept op sla reg len buf res s) :=
  accept_eq_next.2 ⟨hslot, rfl⟩

/-- A busy request step answers BUSY and touches nothing but the response (rule R83). -/
theorem requestStep_of_busy {op : Operation} {sla reg len buf res : Nat} {s : State}
    (hbusy : s.ctx.state ≠ .idle) (hused : s.ctx.state ≠ .unused7) :
    requestStep op sla reg len buf res s = .next (s.respond rspBusyByte) :=
  requestStep_eq_next.2 (.inl ⟨hused, s.busy_iff.2 hbusy, rfl⟩)

/-- Outside code 7 ERROR_CODE reads `last_status_code` and touches nothing but the response (rule R84). -/
theorem exec_errorCode {s : State} (hused : s.ctx.state ≠ .unused7) :
    exec .errorCode s = .next (s.respond s.ctx.lastStatusCode) :=
  if_neg hused

/-- Settles O9: the operands pass the checks, so the request step in `Idle` is the accepting step. -/
theorem admittedRequestIsAccepted : Obligations.AdmittedRequestIsAccepted := by
  intro s op sla reg len buf res hidle hadm
  rw [exec_request]
  exact requestStep_eq_next.2
    (.inr ⟨hidle, admission_eq_none_iff_admitted.2 hadm, accept_eq_next_afterAccept hadm.slotOk⟩)

/-- Settles O10: while busy the request step answers before it looks at its operands. -/
theorem busyRequestIsRejected : Obligations.BusyRequestIsRejected := by
  intro s op sla reg len buf res hbusy hused
  rw [exec_request]
  exact requestStep_of_busy hbusy hused

/-- Settles O12: the ERROR_CODE step asks only that the state is not code 7, so idle and busy states answer alike. -/
theorem errorCodeResponds : Obligations.ErrorCodeResponds :=
  fun _ hused => exec_errorCode hused

end Sys2Proof
end

section
/-!
The arm function (42_sequencer.md rule R120): it looks only at whether a further element follows.
-/
namespace Sys2Proof

theorem arm_of_more {h len : Nat} (hmore : h + 1 < len) : arm h len = .armAck :=
  if_pos hmore

theorem arm_of_last {h len : Nat} (hlast : len ≤ h + 1) : arm h len = .armNack :=
  if_neg (Nat.not_lt.2 hlast)

/-- Over the elements of a read in order: a NACK for the last, an ACK for each of the `n` before it. -/
theorem map_arm_range_succ (n : Nat) :
    (List.range (n + 1)).map (fun h => arm h (n + 1)) = List.replicate n .armAck ++ [.armNack] := by
  have hacks : (List.range n).map (fun h => arm h (n + 1)) = List.replicate n .armAck := by
    rw [List.map_eq_replicate_iff.2 fun h hh => arm_of_more (Nat.succ_lt_succ (List.mem_range.1 hh)), List.length_range]
  rw [List.range_succ, List.map_append, hacks, List.map_singleton, arm_of_last le_rfl]

/-- Settles O8: the first clause is the definition; in the second `len` is the number of ACKs plus one. -/
theorem armGivesOneNackLast : Obligations.ArmGivesOneNackLast := by
  refine ⟨fun h len _ => rfl, fun len hpos => ?_⟩
  obtain ⟨n, rfl⟩ := Nat.exists_eq_add_one.2 hpos
  exact map_arm_range_succ n

end Sys2Proof
end

section
/-!
The model's updates of the state add up to the records in which the statements write the next states: an emitted command,
the two ends of a transaction (42_sequencer.md rules R121, R122), and a received byte stored and counted (rule R118).
-/
namespace Sys2Proof

open Sys2Proof.Machine Sys2Proof.Claims

/-- Every command but STOP starts a bus operation (43_bus_commands.md rules R147, R148). -/
theorem startsOperation_eq_decide (c : Cmd) : startsOperation c = decide (c ≠ .stop) := by
  cases c <;> simp [startsOperation]

theorem emit_eq_afterCommand (c : Cmd) (s : State) : s.emit c = afterCommand c s := by
  simp only [State.emit, Bus.receive, startsOperation_eq_decide, afterCommand]

theorem finished_eq_afterEnd (s : State) : s.finished = afterEnd 0x00 s := rfl

theorem aborted_eq_afterAbort (k : ErrorKind) (status : Byte) (s : State) :
    s.aborted k status = afterAbort (resultByte (.error k)) status s := rfl

theorem finishOk_eq_next_afterEnd {s : State} (hslot : validAddr s.cfg s.ctx.resultSlot = true) :
    finishOk s = .next (afterEnd 0x00 s) :=
  finishOk_next_iff.2 ⟨hslot, (finished_eq_afterEnd s).symm⟩

theorem abort_eq_next_afterAbort {k : ErrorKind} {status : Byte} {s : State}
    (hslot : validAddr s.cfg s.ctx.resultSlot = true) :
    abort k status s = .next (afterAbort (resultByte (.error k)) status s) :=
  abort_next_iff.2 ⟨hslot, (aborted_eq_afterAbort k status s).symm⟩

/-- Where an element is left and the length fits its register, the count goes up by one (rule R124). -/
theorem withElement_of_lt {s : State} (data : Byte) (hleft : s.ctx.handledBytes < s.ctx.bufferLength)
    (hlen : s.ctx.bufferLength < 2 ^ s.cfg.lenBits) :
    s.withElement data =
      { s with
        ctx := { s.ctx with handledBytes := s.ctx.handledBytes + 1 }
        mem := s.mem.write (s.ctx.buffer + s.ctx.handledBytes) data } := by
  rw [State.withElement, State.handledNext_of_lt hleft hlen]
  rfl

end Sys2Proof
end

section
/-!
The sequencer's rows (42_sequencer.md rules R111 to R119, R123), each where the state and the event select it. A row of a
state before ReadData expects one category and aborts on any other: `onRow_expected` and `onRow_unexpected` say so once.
-/
namespace Sys2Proof

open Sys2Proof.Machine Sys2Proof.Claims

theorem rowOf_readData_literal {cfg : Config} (hlit : cfg.readLiteral = true) (status : Byte) :
    rowOf cfg .readData status = .readLiteral :=
  if_pos hlit

/-- The categories SLAR_ACK and received byte exclude each other (41_status_decoder.md rule R91). -/
theorem rowOf_readData_received {cfg : Config} {status : Byte} (hdef : cfg.readLiteral = false)
    (hrx : categorize cfg status = .dataRxAck ∨ categorize cfg status = .dataRxNack) :
    rowOf cfg .readData status = .readByte := by
  have hslar : categorize cfg status ≠ .slarAck := by
    rcases hrx with hc | hc <;> rw [hc] <;> decide
  simp [rowOf, hdef, hslar, hrx]

theorem rowOf_readData_other {cfg : Config} {status : Byte} (hdef : cfg.readLiteral = false)
    (hslar : categorize cfg status ≠ .slarAck) (hack : categorize cfg status ≠ .dataRxAck)
    (hnack : categorize cfg status ≠ .dataRxNack) : rowOf cfg .readData status = .readOther := by
  simp [rowOf, hdef, hslar, hack, hnack]

/-- A selected row that expects one category goes on with its rule when the event is of that category. -/
theorem onRow_expected {r : StepRow} {want : Category} {status : Byte} {s : State} {go other : Result}
    (hrow : rowOf s.cfg s.ctx.state status = r) (hc : categorize s.cfg status = want) :
    onRow r status s (if categorize s.cfg status = want then go else other) = go := by
  rw [onRow_selected hrow, if_pos hc]

/-- A selected row that expects one category aborts on any other (rule R122). -/
theorem onRow_unexpected {r : StepRow} {want : Category} {k : ErrorKind} {status : Byte} {s : State} {go : Result}
    (hrow : rowOf s.cfg s.ctx.state status = r) (hc : categorize s.cfg status ≠ want)
    (hslot : validAddr s.cfg s.ctx.resultSlot = true) :
    onRow r status s (if categorize s.cfg status = want then go else abort k status s) =
      .next (afterAbort (resultByte (.error k)) status s) := by
  rw [onRow_selected hrow, if_neg hc, abort_eq_next_afterAbort hslot]

theorem raiseAgain_of_not_repeating {s : State} (hpol : s.cfg.spurious ≠ .admittedRepeating) : s.raiseAgain = s := by
  unfold State.raiseAgain
  split
  · rfl
  · rfl
  · next hrep => exact absurd hrep hpol

/-- The write half of rule R114: with a payload, its first byte is sent and counted. -/
theorem exec_stepWriteRegisterAddress_write {status data : Byte} {s : State}
    (hrow : rowOf s.cfg s.ctx.state status = .writeRegisterAddress) (hc : categorize s.cfg status = .dataTxAck)
    (hlen : s.ctx.bufferLength ≠ 0) (hop : s.ctx.operation = .writeRegister)
    (hv : validAddr s.cfg s.ctx.buffer = true) :
    exec (.stepWriteRegisterAddress status data) s =
      .next (((s.emit (.send (s.byteAt s.ctx.buffer))).setHandled 1).setSeq .writeData) := by
  refine ((onRow_expected hrow hc).trans (if_neg hlen)).trans ?_
  rw [hop]
  exact withByteAt_valid (a := s.elementAddr 0) hv

/-- The read half of rule R114: with bytes to read, the repeated START. -/
theorem exec_stepWriteRegisterAddress_read {status data : Byte} {s : State}
    (hrow : rowOf s.cfg s.ctx.state status = .writeRegisterAddress) (hc : categorize s.cfg status = .dataTxAck)
    (hlen : s.ctx.bufferLength ≠ 0) (hop : s.ctx.operation = .readRegister) :
    exec (.stepWriteRegisterAddress status data) s = .next ((s.emit .repstart).setSeq .repeatedStart) := by
  refine ((onRow_expected hrow hc).trans (if_neg hlen)).trans ?_
  rw [hop]

/-- Rule R118 where it is selected and the element is there. -/
theorem exec_stepReadByte {status data : Byte} {s : State} (hrow : rowOf s.cfg s.ctx.state status = .readByte)
    (hv : validAddr s.cfg (s.ctx.buffer + s.ctx.handledBytes) = true) :
    exec (.stepReadByte status data) s =
      if s.handledNext < s.ctx.bufferLength then
        .next ((s.withElement data).emit (arm s.handledNext s.ctx.bufferLength))
      else finishOk (s.withElement data) := by
  refine (onRow_selected hrow).trans ?_
  rw [memWrite_valid (a := s.elementAddr s.ctx.handledBytes) hv]
  rfl

/-- Rule R123 where it is selected, the event is one that stores and the element is there. -/
theorem exec_stepReadLiteral {status data : Byte} {s : State} (hrow : rowOf s.cfg s.ctx.state status = .readLiteral)
    (hc : categorize s.cfg status = .slarAck ∨ categorize s.cfg status = .dataRxAck ∨
      categorize s.cfg status = .dataRxNack)
    (hv : validAddr s.cfg (s.ctx.buffer + s.ctx.handledBytes) = true) :
    exec (.stepReadLiteral status data) s =
      if s.handledNext < s.ctx.bufferLength then .next ((s.withElement data).emit .armAck)
      else finishOk ((s.withElement data).emit .armNack) := by
  refine ((onRow_selected hrow).trans (if_pos hc)).trans ?_
  rw [memWrite_valid (a := s.elementAddr s.ctx.handledBytes) hv]
  rfl

/-- Settles O15: the `Idle` row can only raise the event again, which this platform does not. -/
theorem idleIgnoresEvents : Obligations.IdleIgnoresEvents := by
  intro s status data hq hpol
  have hrow : rowOf s.cfg s.ctx.state status = .idle := by rw [hq]; rfl
  calc exec (.stepIdle status data) s = .next s.raiseAgain := onRow_selected hrow
    _ = .next s := by rw [raiseAgain_of_not_repeating hpol]

/-- Settles O16: the row expects START_SENT. -/
theorem startRule : Obligations.StartRule := by
  intro s status data hq
  have hrow : rowOf s.cfg s.ctx.state status = .start := by rw [hq]; rfl
  refine ⟨fun hc => ?_, fun hc hslot => onRow_unexpected hrow hc hslot⟩
  rw [← emit_eq_afterCommand]
  exact onRow_expected hrow hc

/-- Settles O17: the row expects SLAW_ACK. -/
theorem sendSlaveWriteRule : Obligations.SendSlaveWriteRule := by
  intro s status data hq
  have hrow : rowOf s.cfg s.ctx.state status = .sendSlaveWrite := by rw [hq]; rfl
  refine ⟨fun hc => ?_, fun hc hslot => onRow_unexpected hrow hc hslot⟩
  rw [← emit_eq_afterCommand]
  exact onRow_expected hrow hc

/-- Settles O18: the row expects DATA_TX_ACK; then the length decides before the operation does. -/
theorem writeRegisterAddressRule : Obligations.WriteRegisterAddressRule := by
  intro s status data hq
  have hrow : rowOf s.cfg s.ctx.state status = .writeRegisterAddress := by rw [hq]; rfl
  refine ⟨fun hc hlen hslot => ?_, fun hc hlen hop hv => ?_, fun hc hlen hop => ?_,
    fun hc hslot => onRow_unexpected hrow hc hslot⟩
  · exact ((onRow_expected hrow hc).trans (if_pos hlen)).trans (finishOk_eq_next_afterEnd hslot)
  · rw [← emit_eq_afterCommand]
    exact exec_stepWriteRegisterAddress_write hrow hc hlen hop hv
  · rw [← emit_eq_afterCommand]
    exact exec_stepWriteRegisterAddress_read hrow hc hlen hop

/-- Settles O19: the row expects DATA_TX_ACK; then the count decides whether a byte is sent or the transaction ends. -/
theorem writeDataRule : Obligations.WriteDataRule := by
  intro s status data hq hfits
  have hrow : rowOf s.cfg s.ctx.state status = .writeData := by rw [hq]; rfl
  refine ⟨fun hc hleft hv => ?_, fun hc hnone hslot => ?_, fun hc hslot => onRow_unexpected hrow hc hslot⟩
  · refine ((onRow_expected hrow hc).trans (if_pos hleft)).trans ?_
    rw [withByteAt_valid (a := s.elementAddr s.ctx.handledBytes) hv, State.handledNext_of_lt hleft hfits,
      emit_eq_afterCommand]
    rfl
  · exact ((onRow_expected hrow hc).trans (if_neg hnone)).trans (finishOk_eq_next_afterEnd hslot)

/-- Settles O20: the row expects REPSTART_SENT. -/
theorem repeatedStartRule : Obligations.RepeatedStartRule := by
  intro s status data hq
  have hrow : rowOf s.cfg s.ctx.state status = .repeatedStart := by rw [hq]; rfl
  refine ⟨fun hc => ?_, fun hc hslot => onRow_unexpected hrow hc hslot⟩
  rw [← emit_eq_afterCommand]
  exact onRow_expected hrow hc

/-- Settles O22: the byte is stored and counted; the new count decides whether the next byte is armed. -/
theorem readByteRule : Obligations.ReadByteRule := by
  intro s status data hq hdef hrx hleft hfits hv stored
  have hrow : rowOf s.cfg s.ctx.state status = .readByte := by rw [hq]; exact rowOf_readData_received hdef hrx
  rw [exec_stepReadByte hrow hv, State.handledNext_of_lt hleft hfits, withElement_of_lt data hleft hfits]
  refine ⟨fun hmore => ?_, fun hlast hslot => ?_⟩
  · rw [if_pos hmore, emit_eq_afterCommand]
    rfl
  · rw [if_neg hlast.not_lt]
    exact finishOk_eq_next_afterEnd hslot

/-- Settles O23: the three categories excluded leave the row that aborts on every event. -/
theorem readOtherRule : Obligations.ReadOtherRule := by
  intro s status data hq hdef hslar hack hnack hslot
  have hrow : rowOf s.cfg s.ctx.state status = .readOther := by
    rw [hq]
    exact rowOf_readData_other hdef hslar hack hnack
  exact (onRow_selected hrow).trans (abort_eq_next_afterAbort hslot)

/-- Settles O24: as rule R118, but for the commands, and with SLAR_ACK among the categories that store. -/
theorem readLiteralRule : Obligations.ReadLiteralRule := by
  intro s status data hq hlit hslot accepted stored
  have hrow : rowOf s.cfg s.ctx.state status = .readLiteral := by rw [hq]; exact rowOf_readData_literal hlit status
  refine ⟨fun hc hleft hfits hv => ?_, fun hc => ?_⟩
  · rw [exec_stepReadLiteral hrow hc hv, State.handledNext_of_lt hleft hfits, withElement_of_lt data hleft hfits]
    split
    · rw [emit_eq_afterCommand]
    · rw [emit_eq_afterCommand]
      exact finishOk_eq_next_afterEnd hslot
  · exact ((onRow_selected hrow).trans (if_neg hc)).trans (abort_eq_next_afterAbort hslot)

end Sys2Proof
end

section
/-!
The words on the ports (30_encoding.md rules R60 to R71): what a field of an encoding holds and what a word's fields add up
to, so that decoding and encoding undo each other; and the fixed words and statuses that the spec writes out.
-/
namespace Sys2Proof

open Sys2Proof.Machine Sys2Proof.Laws

theorem field_lt (bits lo width : Nat) : field bits lo width < 2 ^ width :=
  Nat.mod_lt _ (by positivity)

theorem field_eq_of_sum {bits a b lo w : Nat} (above : Nat) (hsum : bits = a + 2 ^ lo * b + 2 ^ (lo + w) * above)
    (ha : a < 2 ^ lo) (hb : b < 2 ^ w) : field bits lo w = b := by
  rw [hsum, field_of_sum above ha hb]

/-- A field adds its bits to those below it. -/
theorem mod_add_shifted_field (bits lo width : Nat) :
    bits % 2 ^ lo + 2 ^ lo * field bits lo width = bits % 2 ^ (lo + width) := by
  rw [field, pow_add, Nat.mod_mul]

/-- The `op` of a REQ word and its five operands are its fields (rule R61). -/
theorem decodeReq_encodeReq {cfg : Config} {op sla reg len buf res : Nat} (hop : op < 4)
    (hfits : reqFits cfg sla reg len buf res = true) :
    decodeReq cfg (encodeReq cfg op sla reg len buf res) =
      if op = 1 then .writeRegister sla reg len buf res
      else if op = 2 then .readRegister sla reg len buf res
      else if op = 3 then .errorCode
      else .noRequest := by
  simp only [reqFits, Bool.and_eq_true, decide_eq_true_eq] at hfits
  obtain ⟨⟨⟨⟨hsla, hreg⟩, hlen⟩, hbuf⟩, hres⟩ := hfits
  have below2 : op + 2 ^ 2 * sla < 2 ^ 9 := add_shifted_lt (lo := 2) (w := 7) hop hsla
  have below3 : op + 2 ^ 2 * sla + 2 ^ 9 * reg < 2 ^ 17 := add_shifted_lt (lo := 9) (w := 8) below2 hreg
  have below4 := add_shifted_lt (lo := 17) below3 hlen
  have fieldOp : field (encodeReq cfg op sla reg len buf res) 0 2 = op := by
    refine field_eq_of_sum (a := 0) (sla + 2 ^ 7 * reg + 2 ^ 15 * len + 2 ^ (15 + cfg.lenBits) * buf +
      2 ^ (15 + cfg.lenBits + cfg.addrBits) * res) ?_ (by norm_num) hop
    simp only [encodeReq, pow_add]
    ring
  have fieldSla : field (encodeReq cfg op sla reg len buf res) 2 7 = sla := by
    refine field_eq_of_sum (reg + 2 ^ 8 * len + 2 ^ (8 + cfg.lenBits) * buf +
      2 ^ (8 + cfg.lenBits + cfg.addrBits) * res) ?_ hop hsla
    simp only [encodeReq, pow_add]
    ring
  have fieldReg : field (encodeReq cfg op sla reg len buf res) 9 8 = reg := by
    refine field_eq_of_sum (len + 2 ^ cfg.lenBits * buf + 2 ^ (cfg.lenBits + cfg.addrBits) * res) ?_ below2 hreg
    simp only [encodeReq, pow_add]
    ring
  have fieldLen : field (encodeReq cfg op sla reg len buf res) 17 cfg.lenBits = len := by
    refine field_eq_of_sum (buf + 2 ^ cfg.addrBits * res) ?_ below3 hlen
    simp only [encodeReq, pow_add]
    ring
  have fieldBuf : field (encodeReq cfg op sla reg len buf res) (17 + cfg.lenBits) cfg.addrBits = buf :=
    field_of_sum res below4 hbuf
  have fieldRes : field (encodeReq cfg op sla reg len buf res) (17 + cfg.lenBits + cfg.addrBits) cfg.addrBits = res :=
    field_eq_of_sum 0 rfl (add_shifted_lt below4 hbuf) hres
  simp only [decodeReq, fieldOp, fieldSla, fieldReg, fieldLen, fieldBuf, fieldRes]

/-- A transaction request's fields, put together again, are the whole word: none of its bits is outside them. -/
theorem encodeReq_fields {cfg : Config} {bits : Nat} (h : bits < 2 ^ portWidth cfg .req) :
    encodeReq cfg (field bits 0 2) (field bits 2 7) (field bits 9 8) (field bits 17 cfg.lenBits)
      (field bits (17 + cfg.lenBits) cfg.addrBits) (field bits (17 + cfg.lenBits + cfg.addrBits) cfg.addrBits) = bits := by
  have hop : field bits 0 2 = bits % 2 ^ 2 := by simp [field]
  have hwidth : 17 + cfg.lenBits + cfg.addrBits + cfg.addrBits = portWidth cfg .req := by
    simp only [portWidth]
    omega
  rw [encodeReq, hop, mod_add_shifted_field bits 2 7, mod_add_shifted_field bits 9 8, mod_add_shifted_field bits 17,
    mod_add_shifted_field, mod_add_shifted_field, hwidth, Nat.mod_eq_of_lt h]

theorem decodeReq_of_op_one {cfg : Config} {bits : Nat} (hop : field bits 0 2 = 1) :
    decodeReq cfg bits = .writeRegister (field bits 2 7) (field bits 9 8) (field bits 17 cfg.lenBits)
      (field bits (17 + cfg.lenBits) cfg.addrBits) (field bits (17 + cfg.lenBits + cfg.addrBits) cfg.addrBits) :=
  if_pos hop

theorem decodeReq_of_op_two {cfg : Config} {bits : Nat} (hop : field bits 0 2 = 2) :
    decodeReq cfg bits = .readRegister (field bits 2 7) (field bits 9 8) (field bits 17 cfg.lenBits)
      (field bits (17 + cfg.lenBits) cfg.addrBits) (field bits (17 + cfg.lenBits + cfg.addrBits) cfg.addrBits) := by
  simp only [decodeReq, hop]
  rfl

/-- A word's fields fit the registers they are read into. -/
theorem reqFits_fields (cfg : Config) (bits : Nat) :
    reqFits cfg (field bits 2 7) (field bits 9 8) (field bits 17 cfg.lenBits)
      (field bits (17 + cfg.lenBits) cfg.addrBits) (field bits (17 + cfg.lenBits + cfg.addrBits) cfg.addrBits) = true := by
  simp only [reqFits, field_lt, decide_true, Bool.and_true]

theorem decodeReq_wf (cfg : Config) (bits : Nat) : (decodeReq cfg bits).wf cfg = true := by
  have hfits := reqFits_fields cfg bits
  unfold decodeReq
  simp only
  split_ifs
  · exact hfits
  · exact hfits
  · rfl
  · rfl

theorem eventInstr_of_not_listed {status : Byte} (data : Byte) (h : listedCode (status &&& 0xF8) = false) :
    eventInstr status data = .evOther status data := by
  simp [listedCode] at h
  simp [eventInstr, h]

theorem mem_of_listedCode {code : Byte} (h : listedCode code = true) :
    code ∈ [(0x08 : Byte), 0x10, 0x18, 0x20, 0x28, 0x30, 0x38, 0x40, 0x48, 0x50, 0x58] :=
  List.contains_iff_mem.1 h

/-- The EV row of a status and data byte is well-formed and carries them both (rules R64, R65). -/
theorem eventInstr_wf_and_encode (cfg : Config) (status data : Byte) :
    (eventInstr status data).wf cfg = true ∧ encode cfg (eventInstr status data) = (.ev, encodeEv status data) := by
  have carried : ∀ code : Byte, status &&& 0xF8 = code →
      (Port.ev, encodeEv (statusOf code (status.extractLsb' 0 3)) data) = (Port.ev, encodeEv status data) := by
    rintro code rfl
    rw [statusOf_join]
  cases hl : listedCode (status &&& 0xF8) with
  | false =>
    rw [eventInstr_of_not_listed data hl]
    exact ⟨congrArg (!·) hl, rfl⟩
  | true =>
    generalize hi : eventInstr status data = i
    have hc := mem_of_listedCode hl
    simp only [List.mem_cons, List.not_mem_nil, or_false] at hc
    rcases hc with hc | hc | hc | hc | hc | hc | hc | hc | hc | hc | hc <;>
    · simp only [eventInstr, hc] at hi
      subst hi
      exact ⟨rfl, carried _ hc⟩

/-- The byte at the top of a word, put above the bits below it. -/
theorem mod_add_shifted_byte (bits lo : Nat) (h : bits < 2 ^ (lo + 8)) :
    bits % 2 ^ lo + 2 ^ lo * (BitVec.ofNat 8 (field bits lo 8)).toNat = bits := by
  rw [BitVec.toNat_ofNat, Nat.mod_eq_of_lt (field_lt bits lo 8), mod_add_shifted_field, Nat.mod_eq_of_lt h]

/-- Settles O2: an EV word is its status below its data byte, a transaction request's word its six fields. -/
theorem encodeDecodeAgreeOnInputs : Obligations.EncodeDecodeAgreeOnInputs := by
  intro cfg bits
  refine ⟨fun hbits => ?_, fun hbits hop => ?_⟩
  · rw [decodeEv, (eventInstr_wf_and_encode cfg _ _).2, encodeEv, BitVec.toNat_ofNat, field, pow_zero, Nat.div_one,
      Nat.mod_mod, mod_add_shifted_byte bits 8 hbits]
  · have hwidth : bits < 2 ^ portWidth cfg .req := hbits
    have hword := encodeReq_fields hwidth
    have hfield : field bits 0 2 = bits % 4 := by simp [field]
    rcases hop with hop | hop <;> rw [hop] at hfield
    · rw [decodeReq_of_op_one hfield]
      rw [hfield] at hword
      exact congrArg (Prod.mk Port.req) hword
    · rw [decodeReq_of_op_two hfield]
      rw [hfield] at hword
      exact congrArg (Prod.mk Port.req) hword

theorem decodeCmd_wf (cfg : Config) (bits : Nat) : (decodeCmd bits).wf cfg = true := by
  unfold decodeCmd
  split_ifs <;> rfl

/-- The eight result codes have a row each (rule R68). -/
theorem readRes_of_le (cfg : Config) {bits : Nat} (h : bits ≤ 7) :
    ∃ i, readRes bits = .row i ∧ i.wf cfg = true := by
  interval_cases bits <;> exact ⟨_, rfl, rfl⟩

theorem readRes_of_ge {bits : Nat} (h : 8 ≤ bits) : readRes bits = .resultNeverWritten (BitVec.ofNat 8 bits) := by
  unfold readRes
  rw [if_neg (by omega), if_neg (by omega), if_neg (by omega), if_neg (by omega), if_neg (by omega), if_neg (by omega),
    if_neg (by omega), if_neg (by omega)]

theorem readRsp_transaction_of_le (cfg : Config) {bits : Nat} (h : bits ≤ 1) :
    ∃ i, readRsp .transaction bits = .row i ∧ i.wf cfg = true := by
  interval_cases bits <;> exact ⟨_, rfl, rfl⟩

theorem readRsp_transaction_of_ge {bits : Nat} (h : 2 ≤ bits) :
    readRsp .transaction bits = .responseNeverProduced (BitVec.ofNat 8 bits) := by
  rw [readRsp, if_neg (by omega), if_neg (by omega)]

theorem decode_of_row {cfg : Config} {p : Port} {bits : Nat} {i : Instr} (hbits : bits < 2 ^ portWidth cfg p)
    (hrow : readPort cfg p bits = .row i) : decode cfg p bits = .ok i := by
  rw [decode_of_lt cfg p bits hbits, hrow]
  rfl

/-- Settles O3: port by port; a pattern within the port's width is decoded to the row that its reading names. -/
theorem inputPortsDecodeTotally : Obligations.InputPortsDecodeTotally := by
  intro cfg p bits hbits
  refine ⟨fun hp => ?_, ?_, ?_, ?_⟩
  · have hrow : ∃ i, readPort cfg p bits = .row i ∧ i.wf cfg = true := by
      rcases hp with rfl | rfl | rfl | ⟨rfl, hle⟩ | ⟨rfl, hle⟩
      · exact ⟨_, rfl, decodeReq_wf cfg bits⟩
      · exact ⟨_, rfl, (eventInstr_wf_and_encode cfg _ _).1⟩
      · exact ⟨_, rfl, decodeCmd_wf cfg bits⟩
      · exact readRes_of_le cfg hle
      · exact readRsp_transaction_of_le cfg hle
    obtain ⟨i, hi, hwf⟩ := hrow
    exact ⟨i, hi, decode_of_row hbits hi, hwf⟩
  · rintro rfl hge
    exact readRes_of_ge hge
  · rintro rfl hge
    exact readRsp_transaction_of_ge hge
  · rintro rfl
    rfl

/-- Every well-formed instruction's word lies within its port's width. -/
theorem encode_lt {cfg : Config} {i : Instr} (h : i.wf cfg = true) :
    (encode cfg i).2 < 2 ^ portWidth cfg (encode cfg i).1 := by
  revert cfg
  show FitsFormat.Statement i
  cases i
  exacts [FitsFormat.writeRegister _ _ _ _ _, FitsFormat.readRegister _ _ _ _ _, FitsFormat.errorCode,
    FitsFormat.noRequest, FitsFormat.evStartSent _ _, FitsFormat.evRepstartSent _ _, FitsFormat.evSlawAck _ _,
    FitsFormat.evSlawNack _ _, FitsFormat.evDataTxAck _ _, FitsFormat.evDataTxNack _ _, FitsFormat.evArbLost _ _,
    FitsFormat.evSlarAck _ _, FitsFormat.evSlarNack _ _, FitsFormat.evDataRxAck _ _, FitsFormat.evDataRxNack _ _,
    FitsFormat.evOther _ _, FitsFormat.stepIdle _ _, FitsFormat.stepStart _ _, FitsFormat.stepSendSlaveWrite _ _,
    FitsFormat.stepWriteRegisterAddress _ _, FitsFormat.stepWriteData _ _, FitsFormat.stepRepeatedStart _ _,
    FitsFormat.stepReadSlarAck _ _, FitsFormat.stepReadByte _ _, FitsFormat.stepReadOther _ _,
    FitsFormat.stepReadLiteral _ _, FitsFormat.stepUnused _ _, FitsFormat.cmdStart, FitsFormat.cmdRepstart,
    FitsFormat.cmdSend _, FitsFormat.cmdArmAck, FitsFormat.cmdArmNack, FitsFormat.cmdStop, FitsFormat.cmdUnused0,
    FitsFormat.cmdUnused7, FitsFormat.resOk, FitsFormat.resInProgress, FitsFormat.resStartConditionError,
    FitsFormat.resAddressError, FitsFormat.resRegisterWriteError, FitsFormat.resDataWriteError,
    FitsFormat.resRepeatedStartError, FitsFormat.resDataReadError, FitsFormat.rspAccepted, FitsFormat.rspBusy]

/-- A row's own code selects it, whatever the low bits (rule R65). -/
theorem decodeEv_statusOf {code : Byte} {low : BitVec 3} {data : Byte} {i : Instr}
    (hcode : code ∈ [(0x08 : Byte), 0x10, 0x18, 0x20, 0x28, 0x30, 0x38, 0x40, 0x48, 0x50, 0x58])
    (hrow : ∀ status : Byte, status.extractLsb' 0 3 = low → status &&& 0xF8 = code → eventInstr status data = i) :
    decodeEv (encodeEv (statusOf code low) data) = i := by
  obtain ⟨hlow, hmask⟩ := statusOf_split low code hcode
  rw [decodeEv_encodeEv, hrow _ hlow hmask]

/-- The word of a sequencer row is read back where its state and event select it (42_sequencer.md rule R110). -/
theorem decodeState_of_selected {cfg : Config} {q : SeqState} {r : StepRow} {status : Byte} (data : Byte)
    (hrow : rowOf cfg q status = r) :
    decodeState cfg (encodeState q status data) = stepInstr r status data := by
  rw [decodeState_encodeState, hrow]

theorem decodeCmd_encodeCmd_send (b : Byte) : decodeCmd (encodeCmd (.send b)) = .cmdSend b := by
  have hb := b.isLt
  have hcode : field (encodeCmd (.send b)) 0 3 = 3 := by simp [field, encodeCmd]
  have hbyte : field (encodeCmd (.send b)) 3 8 = b.toNat := by simp [field, encodeCmd]; omega
  simp [decodeCmd, hcode, hbyte]

/-- What each port reads from a well-formed instruction's word is that instruction. -/
theorem readPort_encode {cfg : Config} {i : Instr} (h : i.wf cfg = true) :
    readPort cfg (encode cfg i).1 (encode cfg i).2 = .row i := by
  cases i
  case writeRegister | readRegister => exact congrArg Reading.row (decodeReq_encodeReq (by decide) h)
  case evStartSent | evRepstartSent | evSlawAck | evSlawNack | evDataTxAck | evDataTxNack | evArbLost | evSlarAck |
      evSlarNack | evDataRxAck | evDataRxNack =>
    exact congrArg Reading.row (decodeEv_statusOf (by decide) fun _ hlow hmask => by
      simp only [eventInstr, hlow, hmask]
      rfl)
  case evOther =>
    refine congrArg Reading.row ((decodeEv_encodeEv _ _).trans (eventInstr_of_not_listed _ ?_))
    simpa [Instr.wf] using h
  case stepIdle | stepStart | stepSendSlaveWrite | stepWriteRegisterAddress | stepWriteData | stepRepeatedStart |
      stepUnused =>
    exact congrArg Reading.row (decodeState_of_selected _ rfl)
  case stepReadSlarAck | stepReadByte | stepReadOther | stepReadLiteral =>
    exact congrArg Reading.row (decodeState_of_selected _ (of_decide_eq_true h))
  case errorCode | noRequest => simp [readPort, encode, decodeReq, field]
  case cmdSend => exact congrArg Reading.row (decodeCmd_encodeCmd_send _)
  case cmdStart | cmdRepstart | cmdArmAck | cmdArmNack | cmdStop | cmdUnused0 | cmdUnused7 =>
    simp [readPort, encode, encodeCmd, decodeCmd, field]
  all_goals rfl

/-- Settles O1: the word fits its port, and the port's reading of it is the instruction. -/
theorem decodeEncodeAgree : Obligations.DecodeEncodeAgree :=
  fun _ _ hwf => decode_of_row (encode_lt hwf) (readPort_encode hwf)

/-- Settles O4: the seven words are evaluated. -/
theorem specWordsDecode : Obligations.SpecWordsDecode := by
  refine ⟨?_, ?_, ?_, ?_, ?_, ?_, ?_⟩ <;> rfl

/-- Settles O5: each of the 256 statuses is evaluated. -/
theorem statusCodesGiveTheirCategories : Obligations.StatusCodesGiveTheirCategories := by
  unfold Obligations.StatusCodesGiveTheirCategories
  decide

/-- Settles O6: the decoder looks a status up under the mask only. -/
theorem lowStatusBitsDoNotClassify : Obligations.LowStatusBitsDoNotClassify := by
  intro cfg a b hmask hab
  rw [categorize, categorize, hmask, hab]

end Sys2Proof
end

section
/-!
All that an event step does, read off its outcomes (`EventOutcome`, 42_sequencer.md rules R111 to R123): memory, commands,
`bus_pending`, and how each outcome of a row of the EV or STATE format is an outcome of the event step.
-/
namespace Sys2Proof.Machine

open Sys2Proof.Claims

/-- An instruction that carries an event delivers it, or is a row of the sequencer on it. -/
theorem exec_of_eventOperands {i : Instr} {status data : Byte} (hi : eventOperands i = some (status, data)) :
    (∀ s, exec i s = deliverEvent status data s) ∨ ∃ r, i = stepInstr r status data := by
  cases i <;> cases hi
  case stepIdle => exact .inr ⟨.idle, rfl⟩
  case stepStart => exact .inr ⟨.start, rfl⟩
  case stepSendSlaveWrite => exact .inr ⟨.sendSlaveWrite, rfl⟩
  case stepWriteRegisterAddress => exact .inr ⟨.writeRegisterAddress, rfl⟩
  case stepWriteData => exact .inr ⟨.writeData, rfl⟩
  case stepRepeatedStart => exact .inr ⟨.repeatedStart, rfl⟩
  case stepReadSlarAck => exact .inr ⟨.readSlarAck, rfl⟩
  case stepReadByte => exact .inr ⟨.readByte, rfl⟩
  case stepReadOther => exact .inr ⟨.readOther, rfl⟩
  case stepReadLiteral => exact .inr ⟨.readLiteral, rfl⟩
  case stepUnused => exact .inr ⟨.unused, rfl⟩
  all_goals exact .inl fun _ => rfl

/-- An event row starts the event step with `bus_pending` false, a sequencer row as it is; nothing else differs. -/
theorem eventOutcome_of_exec {i : Instr} {status data : Byte} {s t : State}
    (hi : eventOperands i = some (status, data)) (h : exec i s = .next t) :
    ∃ p, EventOutcome status data (s.setPending p) t := by
  rcases exec_of_eventOperands hi with hdeliver | ⟨r, rfl⟩
  · rw [hdeliver, deliverEvent_eq_next] at h
    exact ⟨false, eventStep_next h.2⟩
  · exact ⟨s.bus.pending, eventStep_next (exec_stepInstr_next h)⟩

section
variable {status data : Byte} {s t : State}

theorem EventOutcome.mem_wf (h : EventOutcome status data s t) (hwf : s.mem.wf = true) : t.mem.wf = true := by
  cases h <;> simp [State.aborted, State.finished, State.withResult, State.withElement, Memory.wf_write, hwf]

/-- An event never starts a transaction. -/
theorem EventOutcome.busy_before (h : EventOutcome status data s t) (hbusy : t.ctx.state ≠ .idle) :
    s.ctx.state ≠ .idle := by
  cases h <;> simp_all

theorem State.withResult_byteAt_of_ne (s : State) (b : Byte) {a : Nat} (h : a ≠ s.ctx.resultSlot) :
    (s.withResult b).byteAt a = s.byteAt a :=
  Memory.read_write_other _ _ _ _ h

theorem State.withElement_byteAt_of_ne (s : State) (b : Byte) {a : Nat} (h : a ≠ s.ctx.buffer + s.ctx.handledBytes) :
    (s.withElement b).byteAt a = s.byteAt a :=
  Memory.read_write_other _ _ _ _ h

theorem State.finished_byteAt_of_ne (s : State) {a : Nat} (h : a ≠ s.ctx.resultSlot) :
    s.finished.byteAt a = s.byteAt a :=
  s.withResult_byteAt_of_ne _ h

theorem State.aborted_byteAt_of_ne (s : State) (k : ErrorKind) (status : Byte) {a : Nat} (h : a ≠ s.ctx.resultSlot) :
    (s.aborted k status).byteAt a = s.byteAt a :=
  s.withResult_byteAt_of_ne _ h

/-- A received byte is stored under either reading (rules R118, R123). -/
theorem storesElement_of_received (hq : s.ctx.state = .readData)
    (hc : categorize s.cfg status = .dataRxAck ∨ categorize s.cfg status = .dataRxNack) : storesElement s status :=
  ⟨hq, hc.imp_right .inl⟩

/-- In the literal reading SLAR_ACK stores as well (rule R123). -/
theorem storesElement_of_literal (hq : s.ctx.state = .readData) (hlit : s.cfg.readLiteral = true)
    (hc : categorize s.cfg status = .slarAck ∨ categorize s.cfg status = .dataRxAck ∨
      categorize s.cfg status = .dataRxNack) : storesElement s status :=
  ⟨hq, by rcases hc with hc | hc | hc <;> simp [hlit, hc]⟩

/-- Memory keeps every byte but the element that is stored and the result byte of a transaction that ends. -/
theorem EventOutcome.byteAt_eq (h : EventOutcome status data s t) {a : Nat}
    (helement : ¬(storesElement s status ∧ a = s.ctx.buffer + s.ctx.handledBytes))
    (hresult : ¬(s.ctx.state ≠ .idle ∧ t.ctx.state = .idle ∧ a = s.ctx.resultSlot)) : t.byteAt a = s.byteAt a := by
  have ends : s.ctx.state ≠ .idle → t.ctx.state = .idle → a ≠ s.ctx.resultSlot :=
    fun hbusy hidle ha => hresult ⟨hbusy, hidle, ha⟩
  have stores : storesElement s status → a ≠ s.ctx.buffer + s.ctx.handledBytes := fun hs ha => helement ⟨hs, ha⟩
  cases h with
  | ignored => simp [State.byteAt]
  | aborted k hq => exact s.aborted_byteAt_of_ne k status (ends hq rfl)
  | registerDone hq | writeDone hq => exact s.finished_byteAt_of_ne (ends (by simp [hq]) rfl)
  | stored hq hr hc => exact s.withElement_byteAt_of_ne _ (stores (storesElement_of_received hq hc))
  | literal hq hr hc => exact s.withElement_byteAt_of_ne _ (stores (storesElement_of_literal hq hr hc))
  | storedLast hq hr hc =>
    exact ((s.withElement data).finished_byteAt_of_ne (ends (by simp [hq]) rfl)).trans
      (s.withElement_byteAt_of_ne _ (stores (storesElement_of_received hq hc)))
  | literalLast hq hr hc =>
    exact (((s.withElement data).emit .armNack).finished_byteAt_of_ne (ends (by simp [hq]) rfl)).trans
      (s.withElement_byteAt_of_ne _ (stores (storesElement_of_literal hq hr hc)))
  | started | addressed | firstByte | restarting | nextByte | restarted | armed => rfl

/-- `last_status_code` is written by an abort only, which ends the transaction (rule R122). -/
theorem EventOutcome.lastStatus (h : EventOutcome status data s t) :
    t.ctx.lastStatusCode = s.ctx.lastStatusCode ∨
      (t.ctx.lastStatusCode = status ∧ s.ctx.state ≠ .idle ∧ t.ctx.state = .idle) := by
  cases h with
  | aborted k hq => exact .inr ⟨rfl, hq, rfl⟩
  | ignored => exact .inl (by simp)
  | _ => exact .inl rfl

theorem arm_ne_stop (h len : Nat) : arm h len ≠ .stop := by
  unfold arm
  split <;> decide

/-- A busy event step emits; its last command is STOP exactly where it ends the transaction, and decides `bus_pending`. -/
theorem EventOutcome.commands (h : EventOutcome status data s t) (hbusy : s.ctx.state ≠ .idle) :
    ∃ cs c, t.cmds = s.cmds ++ cs ++ [c] ∧ t.bus.pending = startsOperation c ∧ (c = .stop ↔ t.ctx.state = .idle) ∧
      (s.cfg.readLiteral = false → cs = []) := by
  have single : ∀ c, t.cmds = s.cmds ++ [c] → t.bus.pending = startsOperation c → (c = .stop ↔ t.ctx.state = .idle) →
      ∃ cs c, t.cmds = s.cmds ++ cs ++ [c] ∧ t.bus.pending = startsOperation c ∧ (c = .stop ↔ t.ctx.state = .idle) ∧
        (s.cfg.readLiteral = false → cs = []) :=
    fun c hcmds hpending hstop => ⟨[], c, by simpa using hcmds, hpending, hstop, fun _ => rfl⟩
  cases h with
  | ignored hq => exact absurd hq hbusy
  | aborted | registerDone | writeDone | storedLast => exact single .stop rfl rfl ⟨fun _ => rfl, fun _ => rfl⟩
  | started | addressed | firstByte | restarting | restarted => exact single _ rfl rfl (by simp)
  | nextByte hq => exact single _ rfl rfl (by simp [hq])
  | armed hq => exact single _ rfl rfl (by simp [hq, arm_ne_stop])
  | stored hq => exact single _ rfl rfl (by simp [hq, arm_ne_stop, State.withElement])
  | literal hq => exact single .armAck rfl rfl (by simp [hq, State.withElement])
  | literalLast hq hr =>
    exact ⟨[.armNack], .stop, rfl, rfl, ⟨fun _ => rfl, fun _ => rfl⟩, fun hdef => by simp [hdef] at hr⟩

/-- After a busy event step an event is pending exactly while the block is busy (rule R128). -/
theorem EventOutcome.pending_eq (h : EventOutcome status data s t) (hbusy : s.ctx.state ≠ .idle) :
    t.bus.pending = decide (t.ctx.state ≠ .idle) := by
  obtain ⟨cs, c, -, hpending, hstop, -⟩ := h.commands hbusy
  rw [hpending, startsOperation_eq_decide, decide_eq_decide]
  exact not_congr hstop

/-- In `Idle` only `bus_pending` can change (rule R111). -/
theorem EventOutcome.eq_of_idle (h : EventOutcome status data s t) (hidle : s.ctx.state = .idle) : t = s.raiseAgain := by
  cases h <;> simp_all

end

end Sys2Proof.Machine
end

section
/-!
The invariants (10_state.md rule R35, 42_sequencer.md rule R128): what an event step, a request step and every other entry
of the schedule do to `Inv`, and to the pairing of `bus_pending` with busy.
-/
namespace Sys2Proof.Machine

open Sys2Proof.Claims

/-- The invariant's clauses on the context alone: the state in use, and the count, operation and length in each state. -/
structure Context.Progress (c : Context) : Prop where
  used : c.state ≠ .unused7
  handled : c.handledBytes ≤ c.bufferLength
  early : c.state = .start ∨ c.state = .sendSlaveWrite ∨ c.state = .writeRegisterAddress ∨ c.state = .repeatedStart →
    c.handledBytes = 0
  writing : c.state = .writeData → c.operation = .writeRegister ∧ 1 ≤ c.handledBytes
  reading : c.state = .repeatedStart ∨ c.state = .readData → c.operation = .readRegister ∧ 1 ≤ c.bufferLength
  receiving : c.state = .readData → c.handledBytes < c.bufferLength

/-- The invariant's clauses on the parameters, memory and the width of each register. -/
structure State.Fits (s : State) : Prop where
  lenBits : 1 ≤ s.cfg.lenBits
  memWf : s.mem.wf = true
  bufferWidth : s.ctx.buffer < 2 ^ s.cfg.addrBits
  lengthWidth : s.ctx.bufferLength < 2 ^ s.cfg.lenBits
  slotWidth : s.ctx.resultSlot < 2 ^ s.cfg.addrBits

/-- The invariant is these two groups and what it says of a running transaction's memory. -/
theorem inv_iff (s : State) :
    Inv s ↔ s.Fits ∧ s.ctx.Progress ∧
      (s.ctx.state ≠ .idle → s.MemoryReady ∧ s.byteAt s.ctx.resultSlot = resultByte .inProgress) := by
  constructor
  · intro h
    exact ⟨⟨h.lenBits, h.memWf, h.bufferWidth, h.lengthWidth, h.slotWidth⟩,
      ⟨h.used, h.handled, h.early, h.writing, h.reading, h.receiving⟩,
      fun hbusy => ⟨h.ready (s.busy_iff.2 hbusy), h.inProgress (s.busy_iff.2 hbusy)⟩⟩
  · rintro ⟨⟨hlb, hwf, hbuf, hlen, hslot⟩, ⟨hused, hhandled, hearly, hwriting, hreading, hreceiving⟩, hbusy⟩
    exact ⟨hlb, hwf, hused, hbuf, hlen, hslot, hhandled, hearly, hwriting, hreading, hreceiving,
      fun h => (hbusy (s.busy_iff.1 h)).1, fun h => (hbusy (s.busy_iff.1 h)).2⟩

/-- In `Idle` the invariant asks nothing of the operation and of memory. -/
theorem Context.progress_of_idle {c : Context} (hq : c.state = .idle) (hh : c.handledBytes ≤ c.bufferLength) :
    c.Progress where
  used := by simp [hq]
  handled := hh
  early := by simp [hq]
  writing := by simp [hq]
  reading := by simp [hq]
  receiving := by simp [hq]

/-- The invariant reads the parameters, the context and memory only. -/
theorem Inv.of_eq {s t : State} (h : Inv s) (hcfg : t.cfg = s.cfg) (hctx : t.ctx = s.ctx) (hmem : t.mem = s.mem) :
    Inv t := by
  obtain ⟨cfg, ctx, bus, mem, agenda, cmds, rsp, seen⟩ := s
  obtain ⟨cfg', ctx', bus', mem', agenda', cmds', rsp', seen'⟩ := t
  obtain ⟨rfl, rfl, rfl⟩ : cfg' = cfg ∧ ctx' = ctx ∧ mem' = mem := ⟨hcfg, hctx, hmem⟩
  exact ⟨h.lenBits, h.memWf, h.used, h.bufferWidth, h.lengthWidth, h.slotWidth, h.handled, h.early, h.writing,
    h.reading, h.receiving, fun hb => ⟨(h.ready hb).slot, (h.ready hb).region, (h.ready hb).apart⟩, h.inProgress⟩

/-- A transaction's memory stays there while its registers stay. -/
theorem State.MemoryReady.of_eq {s t : State} (h : s.MemoryReady) (hcfg : t.cfg = s.cfg)
    (hbuf : t.ctx.buffer = s.ctx.buffer) (hlen : t.ctx.bufferLength = s.ctx.bufferLength)
    (hslot : t.ctx.resultSlot = s.ctx.resultSlot) : t.MemoryReady where
  slot := by rw [hcfg, hslot]; exact h.slot
  region := by rw [hcfg, hbuf, hlen]; exact h.region
  apart := by rw [State.inBuffer, hbuf, hlen, hslot]; exact h.apart

section
variable {status data : Byte} {s t : State}

/-- Under the invariant the count of the element to handle does not wrap (rule R124). -/
theorem Inv.handledNext_eq (hs : Inv s) (h : s.ctx.handledBytes < s.ctx.bufferLength) :
    s.handledNext = s.ctx.handledBytes + 1 :=
  State.handledNext_of_lt h hs.lengthWidth

theorem EventOutcome.progress (h : EventOutcome status data s t) (hs : Inv s) : t.ctx.Progress := by
  have hnext : s.ctx.state = .readData → s.handledNext = s.ctx.handledBytes + 1 :=
    fun hq => hs.handledNext_eq (hs.receiving hq)
  cases h with
  | ignored hq => exact Context.progress_of_idle (by simpa using hq) (by simpa using hs.handled)
  | aborted | registerDone | writeDone => exact Context.progress_of_idle rfl hs.handled
  | storedLast hq | literalLast hq =>
    have hleft := hs.receiving hq
    refine Context.progress_of_idle rfl ?_
    show s.handledNext ≤ s.ctx.bufferLength
    rw [hnext hq]
    exact hleft
  | started hq | addressed hq =>
    have hzero := hs.early (by simp [hq])
    constructor <;> simp [hzero]
  | firstByte hq hl ho =>
    have hpos : 1 ≤ s.ctx.bufferLength := Nat.one_le_iff_ne_zero.2 hl
    constructor <;> simp [ho, hpos]
  | restarting hq hl ho =>
    have hpos : 1 ≤ s.ctx.bufferLength := Nat.one_le_iff_ne_zero.2 hl
    have hzero := hs.early (by simp [hq])
    constructor <;> simp [hzero, ho, hpos]
  | nextByte hq hl =>
    obtain ⟨hop, hcount⟩ := hs.writing hq
    constructor <;> simp [hq, hs.handledNext_eq hl, hop, Nat.succ_le_of_lt hl]
  | restarted hq =>
    obtain ⟨hop, hpos⟩ := hs.reading (by simp [hq])
    have hzero := hs.early (by simp [hq])
    constructor <;> simp [hzero, hop, hpos, Nat.lt_of_lt_of_le Nat.zero_lt_one hpos]
  | armed hq =>
    obtain ⟨-, hprogress, -⟩ := (inv_iff s).1 hs
    exact hprogress
  | stored hq _ _ _ hl | literal hq _ _ _ hl =>
    obtain ⟨hop, hpos⟩ := hs.reading (by simp [hq])
    rw [hnext hq] at hl
    constructor <;> simp [State.withElement, hq, hnext hq, hop, hpos, hl, hl.le]

/-- An event step keeps the invariant. -/
theorem EventOutcome.inv (h : EventOutcome status data s t) (hs : Inv s) : Inv t := by
  obtain ⟨hcfg, -, -, -, -, -, -, hbuf, hlen, hslot⟩ := h.keeps
  refine (inv_iff t).2 ⟨⟨?_, h.mem_wf hs.memWf, ?_, ?_, ?_⟩, h.progress hs, fun hbusy => ?_⟩
  · rw [hcfg]; exact hs.lenBits
  · rw [hcfg, hbuf]; exact hs.bufferWidth
  · rw [hcfg, hlen]; exact hs.lengthWidth
  · rw [hcfg, hslot]; exact hs.slotWidth
  · have hb : s.busy = true := s.busy_iff.2 (h.busy_before hbusy)
    have hready := hs.ready hb
    refine ⟨hready.of_eq hcfg hbuf hlen hslot, ?_⟩
    rw [hslot, h.byteAt_eq ?_ fun hends => hbusy hends.2.1]
    · exact hs.inProgress hb
    · rintro ⟨⟨hq, -⟩, heq⟩
      have hleft := hs.receiving hq
      exact inBuffer_eq_false_iff.1 hready.apart ⟨by omega, by omega⟩

/-- A request step keeps the invariant: an admitted request gives the invariant of its own transaction. -/
theorem requestStep_inv {op : Operation} {sla reg len buf res : Nat} (hs : Inv s)
    (h : requestStep op sla reg len buf res s = .next t) : Inv t := by
  obtain ⟨-, -, rfl⟩ | ⟨-, hadm, haccept⟩ := requestStep_eq_next.1 h
  · exact hs.of_eq rfl rfl rfl
  · obtain ⟨-, -, hlen, hregion, hslot, hapart⟩ := admission_eq_none.1 hadm
    obtain ⟨-, rfl⟩ := accept_eq_next.1 haccept
    refine (inv_iff _).2 ⟨⟨hs.lenBits, Memory.wf_write _ _ _ hs.memWf, (regionValid_iff_regionOk.1 hregion).1, hlen, ?_⟩,
      ?_, fun _ => ⟨⟨hslot, hregion, hapart⟩, Memory.read_write_same _ _ _ hs.memWf⟩⟩
    · simp only [validAddr, Bool.and_eq_true, decide_eq_true_eq] at hslot
      exact hslot.1
    · constructor <;> simp

/-- A store that is no hazard keeps the invariant: it misses the running transaction's result byte. -/
theorem Inv.store (hs : Inv s) {x : Nat} {v : Byte} (hx : ¬(s.busy = true ∧ x = s.ctx.resultSlot)) :
    Inv { s with mem := s.mem.write x v } := by
  obtain ⟨hfits, hprogress, hrunning⟩ := (inv_iff s).1 hs
  refine (inv_iff _).2 ⟨⟨hfits.lenBits, Memory.wf_write _ _ _ hfits.memWf, hfits.bufferWidth, hfits.lengthWidth,
    hfits.slotWidth⟩, hprogress, fun hbusy => ?_⟩
  obtain ⟨hready, hmark⟩ := hrunning hbusy
  refine ⟨⟨hready.slot, hready.region, hready.apart⟩, (Memory.read_write_other _ _ _ _ fun heq => ?_).trans hmark⟩
  exact hx ⟨s.busy_iff.2 hbusy, heq.symm⟩

/-- With the context at zero nothing is asked but the parameters and memory's form. -/
theorem inv_of_zero (hlb : 1 ≤ t.cfg.lenBits) (hwf : t.mem.wf = true) (hctx : t.ctx = Context.zero) : Inv t := by
  refine (inv_iff t).2 ⟨⟨hlb, hwf, ?_, ?_, ?_⟩, ?_, fun hbusy => absurd (by rw [hctx]; rfl) hbusy⟩
  · rw [hctx]; exact Nat.two_pow_pos _
  · rw [hctx]; exact Nat.two_pow_pos _
  · rw [hctx]; exact Nat.two_pow_pos _
  · rw [hctx]; exact Context.progress_of_idle rfl le_rfl

theorem runAct_inv {a : Act} (hs : Inv s) (h : runAct a s = .next t) : Inv t := by
  obtain ⟨op, sla, reg, len, buf, res, hreq⟩ | ⟨-, rfl⟩ | rfl | ⟨status, data, -, hev⟩ | ⟨b, rfl⟩ |
    ⟨x, v, -, hslot, rfl⟩ | ⟨-, rfl⟩ | ⟨-, rfl⟩ := runAct_next h
  · exact requestStep_inv hs hreq
  · exact hs.of_eq rfl rfl rfl
  · exact hs
  · exact hev.inv (hs.of_eq rfl rfl rfl)
  · exact hs.of_eq rfl rfl rfl
  · exact hs.store hslot
  · exact inv_of_zero hs.lenBits hs.memWf rfl
  · exact inv_of_zero hs.lenBits hs.memWf rfl

/-- No entry of the schedule changes the parameters or the rest of the schedule. -/
theorem runAct_keeps {a : Act} (h : runAct a s = .next t) : t.cfg = s.cfg ∧ t.agenda = s.agenda := by
  obtain ⟨op, sla, reg, len, buf, res, hreq⟩ | ⟨-, rfl⟩ | rfl | ⟨status, data, -, hev⟩ | ⟨b, rfl⟩ |
    ⟨x, v, -, -, rfl⟩ | ⟨-, rfl⟩ | ⟨-, rfl⟩ := runAct_next h
  case inl =>
    obtain ⟨-, -, rfl⟩ | ⟨-, -, haccept⟩ := requestStep_eq_next.1 hreq
    · exact ⟨rfl, rfl⟩
    · obtain ⟨-, rfl⟩ := accept_eq_next.1 haccept
      exact ⟨rfl, rfl⟩
  case inr.inr.inr.inl =>
    obtain ⟨hcfg, hagenda, -⟩ := hev.keeps
    exact ⟨hcfg, hagenda⟩
  all_goals exact ⟨rfl, rfl⟩

/-- An entry that is no reset of the block keeps `bus_pending` equal to busy (rule R128). -/
theorem runAct_pending_eq_busy {a : Act} (hpair : s.bus.pending = s.busy) (hpol : s.cfg.spurious ≠ .admittedRepeating)
    (ha : a ≠ .blockReset) (h : runAct a s = .next t) : t.bus.pending = t.busy := by
  obtain ⟨op, sla, reg, len, buf, res, hreq⟩ | ⟨-, rfl⟩ | rfl | ⟨status, data, -, hev⟩ | ⟨b, rfl⟩ |
    ⟨x, v, -, -, rfl⟩ | ⟨-, rfl⟩ | ⟨hreset, -⟩ := runAct_next h
  · obtain ⟨-, -, rfl⟩ | ⟨-, -, haccept⟩ := requestStep_eq_next.1 hreq
    · exact hpair
    · obtain ⟨-, rfl⟩ := accept_eq_next.1 haccept
      rfl
  · exact hpair
  · exact hpair
  · by_cases hq : s.ctx.state = .idle
    · rw [hev.eq_of_idle hq, raiseAgain_of_not_repeating (s := s.enterEvent) hpol]
      exact (s.not_busy_iff.2 hq).symm
    · exact hev.pending_eq hq
  · exact hpair
  · exact hpair
  · rfl
  · exact absurd hreset ha

end

/-- A step is its entry's, on a state that differs from the first in the schedule and the outputs. -/
theorem step_inv {s t : State} (hs : Inv s) (h : step s = .next t) : Inv t := by
  cases hag : s.agenda with
  | nil =>
    rw [step_nil hag] at h
    exact Host.Outcome.next.inj h ▸ hs
  | cons a rest =>
    rw [step_cons hag] at h
    exact runAct_inv (s := s.beginStep rest) (hs.of_eq rfl rfl rfl) h

end Sys2Proof.Machine

namespace Sys2Proof

open Sys2Proof.Machine

/-- Settles O55: every entry of the schedule keeps the invariant, and an empty schedule changes nothing. -/
theorem stepKeepsTheInvariant : Obligations.StepKeepsTheInvariant :=
  fun _ _ hs h => step_inv hs h

/-- Settles O56: besides `Inv`, an entry other than a reset of the block keeps the pairing, the schedule gets shorter, and
the policy is a parameter. -/
theorem stepKeepsPendingPairedWithBusy : Obligations.StepKeepsPendingPairedWithBusy := by
  intro s t hs h
  cases hag : s.agenda with
  | nil =>
    rw [step_nil hag] at h
    exact Host.Outcome.next.inj h ▸ hs
  | cons a rest =>
    have hinv := step_inv hs.inv h
    rw [step_cons hag] at h
    obtain ⟨hcfg, hagenda⟩ := runAct_keeps h
    have hno : ∀ b ∈ a :: rest, b ≠ .blockReset := hag ▸ hs.noMidReset
    refine ⟨hinv, runAct_pending_eq_busy (s := s.beginStep rest) hs.pairing hs.policy (hno a (List.mem_cons_self ..)) h, ?_, ?_⟩
    · rw [hagenda]
      exact fun b hb => hno b (List.mem_cons_of_mem _ hb)
    · rw [hcfg]
      exact hs.policy

end Sys2Proof
end

section
/-!
The bus-event port (43_bus_commands.md rule R146): the twelve event rows are deliveries of their event, and the sequencer's
rows run only where they are selected (42_sequencer.md rule R110).
-/
namespace Sys2Proof

open Sys2Proof.Machine Sys2Proof.Claims

/-- Each event row delivers the event of its operands. -/
theorem exec_of_mem_eventRows {low : BitVec 3} {status data : Byte} {i : Instr} (hi : i ∈ eventRows low status data) :
    ∃ st, eventOperands i = some (st, data) ∧ ∀ s, exec i s = deliverEvent st data s := by
  simp only [eventRows, List.mem_cons, List.not_mem_nil, or_false] at hi
  rcases hi with rfl | rfl | rfl | rfl | rfl | rfl | rfl | rfl | rfl | rfl | rfl | rfl <;> exact ⟨_, rfl, fun _ => rfl⟩

theorem deliverEvent_of_pending {status data : Byte} {s : State} (hpending : s.bus.pending = true) :
    deliverEvent status data s = eventStep status data s.enterEvent :=
  if_pos (by simp [State.mayDeliver, hpending])

/-- A row of the STATE format that is not selected is refused (rule R110). -/
theorem exec_stepInstr_not_selected {r : StepRow} {status : Byte} (data : Byte) {s : State}
    (h : rowOf s.cfg s.ctx.state status ≠ r) : exec (stepInstr r status data) s = .refused .stepNotSelected := by
  cases r <;> exact if_neg h

/-- Settles O25: a sequencer row asks first whether it is the selected one. -/
theorem sequencerRowsAreExclusive : Obligations.SequencerRowsAreExclusive :=
  fun _ _ data _ hr => exec_stepInstr_not_selected data hr.symm

/-- Settles O27: delivery enters the event, and the event step is the selected row. -/
theorem eventRowsRunTheSelectedRule : Obligations.EventRowsRunTheSelectedRule := by
  intro s low status data hpending i hi st d hop
  obtain ⟨st', hop', hexec⟩ := exec_of_mem_eventRows hi
  obtain ⟨rfl, rfl⟩ : st' = st ∧ data = d := by simpa [hop'] using hop
  rw [hexec, deliverEvent_of_pending hpending, eventStep_eq_exec]
  rfl

/-- Settles O29: the policy alone decides whether an event that is not pending is delivered; entering the event forgets
whether it was. -/
theorem deliveryNeedsAPendingEvent : Obligations.DeliveryNeedsAPendingEvent := by
  intro s low status data hpending i hi
  obtain ⟨st, -, hexec⟩ := exec_of_mem_eventRows hi
  refine ⟨fun hpol => ?_, fun hpol => ?_⟩
  · rw [hexec]
    exact if_neg (by simp [State.mayDeliver, hpending, hpol])
  · rw [hexec, hexec]
    exact (if_pos (by simp [State.mayDeliver, hpol])).trans (deliverEvent_of_pending (s := s.setPending true) rfl).symm

theorem eventStep_of_idle {status data : Byte} {s : State} (hidle : s.ctx.state = .idle) :
    eventStep status data s = .next s.raiseAgain := by
  rw [eventStep_eq_exec, hidle]
  exact onRow_selected (by rw [hidle]; rfl)

/-- The platform's policy is what an event that met `Idle` leaves of `bus_pending` (log 17). -/
theorem raiseAgain_enterEvent (s : State) :
    s.enterEvent.raiseAgain =
      { s with bus := { s.bus with pending := decide (s.cfg.spurious = .admittedRepeating) } } := by
  cases hpol : s.cfg.spurious <;> simp only [State.raiseAgain, State.enterEvent_cfg, hpol] <;> rfl

/-- Settles O30: the row of `Idle` writes nothing, so what is left is the entry of the event and the policy. -/
theorem staleEventInIdle : Obligations.StaleEventInIdle := by
  intro s low status data hidle hpending i hi
  obtain ⟨st, -, hexec⟩ := exec_of_mem_eventRows hi
  rw [hexec, deliverEvent_of_pending hpending, eventStep_of_idle (s := s.enterEvent) hidle, raiseAgain_enterEvent]

/-- Settles O14: in code 7 the request step and the event step are refused before they do anything. -/
theorem unusedStateIsRefused : Obligations.UnusedStateIsRefused := by
  intro s hq
  have hstep : ∀ (u : State) (status data : Byte), u.ctx.state = .unused7 →
      exec (.stepUnused status data) u = .refused .stateEncodingUnused :=
    fun u status data hu => onRow_selected (by rw [hu]; rfl)
  refine ⟨fun op sla reg len buf res => ?_, if_pos hq, fun status data => hstep s status data hq,
    fun low status data hpending i hi => ?_⟩
  · rw [exec_request]
    exact if_pos hq
  · obtain ⟨st, -, hexec⟩ := exec_of_mem_eventRows hi
    rw [hexec, deliverEvent_of_pending hpending, eventStep_eq_exec, State.enterEvent_ctx, hq]
    exact hstep s.enterEvent st data hq

theorem rowOf_readData_slarAck {cfg : Config} {status : Byte} (hdef : cfg.readLiteral = false)
    (hc : categorize cfg status = .slarAck) : rowOf cfg .readData status = .readSlarAck := by
  simp [rowOf, hdef, hc]

/-- Settles O21: the row emits the arm command of the element to come. -/
theorem readSlarAckRule : Obligations.ReadSlarAckRule := by
  intro s status data hq hdef hc
  have hrow : rowOf s.cfg s.ctx.state status = .readSlarAck := by rw [hq]; exact rowOf_readData_slarAck hdef hc
  refine (onRow_selected hrow).trans ?_
  rw [emit_eq_afterCommand, arm]

theorem of_rowOf_eq_readByte {cfg : Config} {q : SeqState} {status : Byte} (h : rowOf cfg q status = .readByte) :
    q = .readData ∧ (categorize cfg status = .dataRxAck ∨ categorize cfg status = .dataRxNack) := by
  cases q <;> simp only [rowOf, reduceCtorEq] at h
  split_ifs at h with _ _ hc
  exact ⟨rfl, hc⟩

theorem of_rowOf_eq_readLiteral {cfg : Config} {q : SeqState} {status : Byte}
    (h : rowOf cfg q status = .readLiteral) : q = .readData ∧ cfg.readLiteral = true := by
  cases q <;> simp only [rowOf, reduceCtorEq] at h
  split_ifs at h with hlit
  exact ⟨rfl, hlit⟩

/-- Of the eleven rows only two look at the data byte, and they store it. -/
theorem eventStep_data_irrelevant {status : Byte} (d d' : Byte) {s : State} (hno : ¬storesElement s status) :
    eventStep status d s = eventStep status d' s := by
  rw [eventStep_eq_exec, eventStep_eq_exec]
  cases hrow : rowOf s.cfg s.ctx.state status with
  | readByte =>
    obtain ⟨hq, hc⟩ := of_rowOf_eq_readByte hrow
    exact absurd (storesElement_of_received hq hc) hno
  | readLiteral =>
    obtain ⟨hq, hlit⟩ := of_rowOf_eq_readLiteral hrow
    have hother : ¬(categorize s.cfg status = .slarAck ∨ categorize s.cfg status = .dataRxAck ∨
        categorize s.cfg status = .dataRxNack) :=
      fun hc => hno (storesElement_of_literal hq hlit hc)
    have aborts : ∀ data, exec (.stepReadLiteral status data) s = abort .dataRead status s :=
      fun data => (onRow_selected hrow).trans (if_neg hother)
    exact (aborts d).trans (aborts d').symm
  | _ => rfl

/-- Settles O31: the delivery hands the data byte to the event step alone. -/
theorem dataByteIgnoredUnlessStored : Obligations.DataByteIgnoredUnlessStored := by
  intro s status d d' hno
  have hstep : eventStep status d s.enterEvent = eventStep status d' s.enterEvent :=
    eventStep_data_irrelevant d d' hno
  rw [exec_eventInstr, exec_eventInstr, deliverEvent, deliverEvent, hstep]

/-- An event that may be delivered is handled: the event step goes on, and what it can do (`EventOutcome`) is what the
statement calls handled. -/
theorem handled_of_eventOutcome {status data : Byte} {s t : State} (h : EventOutcome status data s.enterEvent t) :
    Handled s t := by
  refine ⟨fun hidle => ?_, fun hbusy => ⟨h.pending_eq hbusy, ?_⟩⟩
  · rw [h.eq_of_idle hidle]
    simp
  · obtain ⟨cs, c, hcmds, -, hstop, hsingle⟩ := h.commands hbusy
    exact ⟨cs, c, hcmds, hstop, hsingle⟩

/-- Settles O28: the event step is total where the transaction's memory is there. -/
theorem everyEventIsHandled : Obligations.EveryEventIsHandled := by
  intro s low status data hpending hused hready hreceiving _ i hi
  obtain ⟨st, -, hexec⟩ := exec_of_mem_eventRows hi
  obtain ⟨t, ht⟩ := eventStep_total s.enterEvent st data hused
    (fun hbusy => (hready hbusy).of_eq rfl rfl rfl rfl) hreceiving
  exact ⟨t, by rw [hexec, deliverEvent_of_pending hpending, ht], handled_of_eventOutcome (eventStep_next ht)⟩

/-- The result byte of a transaction that an event ends: RES_OK, or an error and with it the raw status (rule R122). -/
theorem ended_of_eventOutcome {status data : Byte} {s t : State} (h : EventOutcome status data s t)
    (hwf : s.mem.wf = true) (hbusy : s.ctx.state ≠ .idle) (hidle : t.ctx.state = .idle) :
    t.byteAt s.ctx.resultSlot = resultByte .ok ∨
      ∃ k, t.byteAt s.ctx.resultSlot = resultByte (.error k) ∧ t.ctx.lastStatusCode = status := by
  have hwritten : ∀ (m : Memory) (b : Byte), m.wf = true → (m.write s.ctx.resultSlot b).read s.ctx.resultSlot = b :=
    fun m b hm => Memory.read_write_same m _ b hm
  have hstored : (s.withElement data).mem.wf = true := Memory.wf_write _ _ _ hwf
  cases h with
  | ignored hq => exact absurd hq hbusy
  | aborted k => exact .inr ⟨k, hwritten _ _ hwf, rfl⟩
  | registerDone | writeDone => exact .inl (hwritten _ _ hwf)
  | storedLast | literalLast => exact .inl (hwritten _ _ hstored)
  | started | addressed | firstByte | restarting | restarted => cases hidle
  | nextByte hq | armed hq | stored hq | literal hq => cases hq.symm.trans hidle

/-- Settles O32: a result byte other than RES_OK was written by the abort that recorded the status. -/
theorem errorCodeAfterAnError : Obligations.ErrorCodeAfterAnError := by
  intro s t status data hwf hbusy h hidle herror
  rw [exec_eventInstr, deliverEvent_eq_next] at h
  obtain hok | ⟨k, hbyte, hstatus⟩ := ended_of_eventOutcome (eventStep_next h.2) hwf hbusy hidle
  · exact absurd hok herror
  · have hrange : ∀ k, 2 ≤ (resultByte (.error k)).toNat ∧ (resultByte (.error k)).toNat ≤ 7 := by
      intro k
      cases k <;> decide
    rw [State.enterEvent_ctx] at hbyte
    rw [hbyte, exec_errorCode (by simp [hidle]), hstatus]
    exact ⟨(hrange k).1, (hrange k).2, rfl⟩

end Sys2Proof
end

section
/-!
Frames: what each instruction leaves unchanged, by the port it stands on (30_encoding.md rule R60). The rows of the output
ports are one command, one result code or one response; the event steps are made of such rows (00_scope.md rule R16).
-/
namespace Sys2Proof

open Sys2Proof.Machine Sys2Proof.Claims

/-- The row of the command port for a command. -/
def commandRow : Cmd → Instr
  | .start => .cmdStart
  | .repstart => .cmdRepstart
  | .send b => .cmdSend b
  | .armAck => .cmdArmAck
  | .armNack => .cmdArmNack
  | .stop => .cmdStop

/-- The row of the RES format for a result code. -/
def resultRow : ResultCode → Instr
  | .ok => .resOk
  | .inProgress => .resInProgress
  | .error .startCondition => .resStartConditionError
  | .error .address => .resAddressError
  | .error .registerWrite => .resRegisterWriteError
  | .error .dataWrite => .resDataWriteError
  | .error .repeatedStart => .resRepeatedStartError
  | .error .dataRead => .resDataReadError

theorem exec_commandRow (c : Cmd) (s : State) : exec (commandRow c) s = .next (s.emit c) := by
  cases c <;> rfl

theorem exec_resultRow (r : ResultCode) (s : State) : exec (resultRow r) s = writeResult r s := by
  rcases r with _ | _ | k
  · rfl
  · rfl
  · cases k <;> rfl

theorem encode_commandRow_port (cfg : Config) (c : Cmd) : (encode cfg (commandRow c)).1 = .cmd := by
  cases c <;> rfl

theorem encode_resultRow_port (cfg : Config) (r : ResultCode) : (encode cfg (resultRow r)).1 = .res := by
  rcases r with _ | _ | k
  · rfl
  · rfl
  · cases k <;> rfl

section
variable {cfg : Config} {i : Instr} {s t : State}

theorem request_of_port_req (hp : (encode cfg i).1 = .req) :
    (∃ op sla reg len buf res, i = request op sla reg len buf res) ∨ i = .errorCode ∨ i = .noRequest := by
  cases i <;> cases hp
  case writeRegister => exact .inl ⟨.writeRegister, _, _, _, _, _, rfl⟩
  case readRegister => exact .inl ⟨.readRegister, _, _, _, _, _, rfl⟩
  case errorCode => exact .inr (.inl rfl)
  case noRequest => exact .inr (.inr rfl)

theorem eventOperands_of_port (hp : (encode cfg i).1 = .ev ∨ (encode cfg i).1 = .state) :
    ∃ status data, eventOperands i = some (status, data) := by
  rcases hp with hp | hp <;> cases i <;> cases hp <;> exact ⟨_, _, rfl⟩

/-- A row of the command port that goes on emits one command. -/
theorem emit_of_port_cmd (hp : (encode cfg i).1 = .cmd) (h : exec i s = .next t) : ∃ c, t = s.emit c := by
  cases i <;> cases hp <;> cases h <;> exact ⟨_, rfl⟩

/-- A row of the RES format writes one result code. -/
theorem writeResult_of_port_res (hp : (encode cfg i).1 = .res) (h : exec i s = .next t) :
    ∃ r, writeResult r s = .next t := by
  cases i <;> cases hp <;> exact ⟨_, h⟩

/-- A row of the RSP format gives one response. -/
theorem respond_of_port_rsp {answered : Answered} (hp : (encode cfg i).1 = .rsp answered) (h : exec i s = .next t) :
    ∃ b, t = s.respond b := by
  cases i <;> cases hp <;> cases h <;> exact ⟨_, rfl⟩

theorem eq_respond_of_exec_errorCode (h : exec .errorCode s = .next t) : t = s.respond s.ctx.lastStatusCode := by
  by_cases hq : s.ctx.state = .unused7
  · cases h.symm.trans (if_pos hq)
  · exact (Host.Outcome.next.inj ((exec_errorCode hq).symm.trans h)).symm

end

/-- Settles O47: port by port; the registers a request supplies are written by the accepting step only. -/
theorem instructionsKeepWhatIsNotTheirs : Obligations.InstructionsKeepWhatIsNotTheirs := by
  intro i s t h
  cases hp : (encode s.cfg i).1 with
  | req =>
    obtain ⟨op, sla, reg, len, buf, res, rfl⟩ | rfl | rfl := request_of_port_req hp
    · rw [exec_request] at h
      obtain ⟨-, -, rfl⟩ | ⟨hidle, -, haccept⟩ := requestStep_eq_next.1 h
      · simp
      · obtain ⟨-, rfl⟩ := accept_eq_next.1 haccept
        exact ⟨rfl, rfl, rfl, fun hno => absurd hidle (hno op sla reg len buf res rfl)⟩
    · rw [eq_respond_of_exec_errorCode h]
      simp
    · cases h
      simp
  | ev | state =>
    obtain ⟨status, data, hop⟩ := eventOperands_of_port (cfg := s.cfg) (i := i) (by simp [hp])
    obtain ⟨p, hout⟩ := eventOutcome_of_exec hop h
    obtain ⟨hcfg, hagenda, hseen, -, hoperands⟩ := hout.keeps
    exact ⟨hcfg, hagenda, hseen, fun _ => hoperands⟩
  | cmd =>
    obtain ⟨c, rfl⟩ := emit_of_port_cmd hp h
    simp
  | res =>
    obtain ⟨r, hr⟩ := writeResult_of_port_res hp h
    obtain ⟨-, rfl⟩ := writeResult_eq_next.1 hr
    simp
  | rsp answered =>
    obtain ⟨b, rfl⟩ := respond_of_port_rsp hp h
    simp

/-- Settles O48: a busy request only responds; an accepted one writes its result byte. -/
theorem requestFrame : Obligations.RequestFrame := by
  intro op sla reg len buf res s t h
  rw [exec_request] at h
  obtain ⟨-, hbusy, rfl⟩ | ⟨hidle, -, haccept⟩ := requestStep_eq_next.1 h
  · exact ⟨rfl, fun hidle => absurd hidle (s.busy_iff.1 hbusy), fun _ => ⟨rfl, rfl, rfl, fun _ => rfl⟩⟩
  · obtain ⟨-, rfl⟩ := accept_eq_next.1 haccept
    exact ⟨rfl, fun _ a ha => Memory.read_write_other _ _ _ _ ha, fun hbusy => absurd hidle hbusy⟩

/-- Settles O49: what an event step can do, said of its rows. -/
theorem eventFrame : Obligations.EventFrame := by
  intro i status data s t hop h
  obtain ⟨p, hout⟩ := eventOutcome_of_exec hop h
  obtain ⟨-, -, -, hrsp, -⟩ := hout.keeps
  exact ⟨hrsp, hout.lastStatus, fun a helement hresult => hout.byteAt_eq helement hresult⟩

/-- Settles O50: one command, one result code, one response, or nothing at all. -/
theorem outputPortFrame : Obligations.OutputPortFrame := by
  intro i s t h
  refine ⟨fun hp => ?_, fun hp => ?_, fun hp => ?_, ?_⟩
  · obtain ⟨c, rfl⟩ := emit_of_port_cmd hp h
    exact ⟨rfl, rfl, fun _ => rfl⟩
  · obtain ⟨r, hr⟩ := writeResult_of_port_res hp h
    obtain ⟨-, rfl⟩ := writeResult_eq_next.1 hr
    exact ⟨rfl, rfl, rfl, rfl, fun a ha => Memory.read_write_other _ _ _ _ ha⟩
  · obtain ⟨answered, hp⟩ | rfl | rfl := hp
    · obtain ⟨b, rfl⟩ := respond_of_port_rsp hp h
      exact ⟨rfl, rfl, rfl, fun _ => rfl⟩
    · rw [eq_respond_of_exec_errorCode h]
      exact ⟨rfl, rfl, rfl, fun _ => rfl⟩
    · cases h
      exact ⟨rfl, rfl, rfl, fun _ => rfl⟩
  · rintro rfl
    cases h
    rfl

/-- How the count moves in an event step (rules R28, R124). -/
theorem handledBytes_of_eventOutcome {status data : Byte} {s t : State} (hs : Inv s)
    (h : EventOutcome status data s t) :
    t.ctx.handledBytes = s.ctx.handledBytes ∨
      (t.ctx.handledBytes = s.ctx.handledBytes + 1 ∧
        (s.ctx.state = .writeRegisterAddress ∨ s.ctx.state = .writeData ∨ s.ctx.state = .readData)) := by
  have received : s.ctx.state = .readData → s.handledNext = s.ctx.handledBytes + 1 :=
    fun hq => hs.handledNext_eq (hs.receiving hq)
  cases h with
  | firstByte hq =>
    have hzero := hs.early (by simp [hq])
    exact .inr ⟨by simp [hzero], .inl hq⟩
  | nextByte hq hl => exact .inr ⟨hs.handledNext_eq hl, .inr (.inl hq)⟩
  | stored hq | storedLast hq | literal hq | literalLast hq => exact .inr ⟨received hq, .inr (.inr hq)⟩
  | ignored => exact .inl (by simp)
  | aborted | registerDone | writeDone | started | addressed | restarting | restarted | armed => exact .inl rfl

/-- Settles O52: the count moves only where a byte is sent or received. -/
theorem handledBytesCountsByOne : Obligations.HandledBytesCountsByOne := by
  intro i status data s t hs hop h
  obtain ⟨p, hout⟩ := eventOutcome_of_exec hop h
  have hinv : Inv (s.setPending p) := hs.of_eq rfl rfl rfl
  obtain hkeep | ⟨hnext, hq⟩ := handledBytes_of_eventOutcome hinv hout
  · exact ⟨.inl hkeep, fun _ => hkeep⟩
  · refine ⟨.inr hnext, fun hq' => ?_⟩
    rw [State.setPending_ctx] at hq
    exfalso
    rcases hq with hq | hq | hq <;> simp [hq] at hq'

theorem eventsLeft_pos {s : State} (hbusy : s.ctx.state ≠ .idle) (hused : s.ctx.state ≠ .unused7) :
    0 < s.eventsLeft := by
  unfold State.eventsLeft
  cases hq : s.ctx.state <;> cases s.ctx.operation <;> simp_all

theorem eventsLeft_of_idle {s : State} (hidle : s.ctx.state = .idle) : s.eventsLeft = 0 := by
  simp [State.eventsLeft, hidle]

/-- A busy event step that goes on, but for SLAR_ACK, leaves fewer events to come (rule R125). -/
theorem eventsLeft_of_eventOutcome {status data : Byte} {s t : State} (hs : Inv s) (hbusy : s.ctx.state ≠ .idle)
    (h : EventOutcome status data s t) :
    t.eventsLeft < s.eventsLeft ∨
      (s.ctx.state = .readData ∧ s.cfg.readLiteral = false ∧ categorize s.cfg status = .slarAck ∧
        t.ctx = s.ctx ∧ t.mem = s.mem) := by
  have ends : t.ctx.state = .idle → t.eventsLeft < s.eventsLeft :=
    fun hidle => by rw [eventsLeft_of_idle hidle]; exact eventsLeft_pos hbusy hs.used
  have received : s.ctx.state = .readData → s.handledNext = s.ctx.handledBytes + 1 :=
    fun hq => hs.handledNext_eq (hs.receiving hq)
  cases h with
  | ignored hq => exact absurd hq hbusy
  | aborted | registerDone | writeDone | storedLast | literalLast => exact .inl (ends rfl)
  | started hq | addressed hq =>
    refine .inl ?_
    cases ho : s.ctx.operation <;> simp [State.eventsLeft, hq, ho]
  | firstByte hq hl ho =>
    refine .inl ?_
    simp [State.eventsLeft, hq, ho]
    omega
  | restarting hq hl ho => exact .inl (by simp [State.eventsLeft, hq, ho])
  | nextByte hq hl =>
    refine .inl ?_
    simp [State.eventsLeft, hq, hs.handledNext_eq hl]
    omega
  | restarted hq => exact .inl (by simp [State.eventsLeft, hq])
  | stored hq _ _ _ hl | literal hq _ _ _ hl =>
    refine .inl ?_
    simp [State.eventsLeft, State.withElement, hq, received hq]
    have := hs.receiving hq
    omega
  | armed hq hr hc => exact .inr ⟨hq, hr, hc, rfl, rfl⟩

/-- Settles O53: the measure of rule R150, outcome by outcome. -/
theorem eventsBringTheEndNearer : Obligations.EventsBringTheEndNearer := by
  intro s t status data hs hbusy _ h
  rw [exec_eventInstr, deliverEvent_eq_next] at h
  exact eventsLeft_of_eventOutcome (s := s.enterEvent) (hs.of_eq rfl rfl rfl) (s.busy_iff.1 hbusy) (eventStep_next h.2)

theorem runRows_cons {i : Instr} {rows : List Instr} {s t : State} (h : exec i s = .next t) :
    runRows (i :: rows) s = runRows rows t := by
  rw [runRows, h, andThen_next]

theorem runRows_command (c : Cmd) (s : State) : runRows [commandRow c] s = .next (s.emit c) :=
  runRows_cons (exec_commandRow c s)

/-- Both ends of a transaction are a result row and STOP (rules R121, R122). -/
theorem runRows_end (r : ResultCode) {s : State} (hv : validAddr s.cfg s.ctx.resultSlot = true) :
    runRows [resultRow r, commandRow .stop] s = .next ((s.withResult (resultByte r)).emit .stop) := by
  rw [runRows_cons ((exec_resultRow r s).trans (writeResult_eq_next.2 ⟨hv, rfl⟩)), runRows_command]
  rfl

/-- The outputs of an accepted request (rules R81, R82). -/
theorem runRows_accept {s : State} (hv : validAddr s.cfg s.ctx.resultSlot = true) :
    runRows [.resInProgress, .cmdStart, .rspAccepted] s =
      .next (((s.withResult (resultByte .inProgress)).emit .start).respond rspAcceptedByte) :=
  (runRows_cons (i := .resInProgress) (writeResult_eq_next.2 ⟨hv, rfl⟩)).trans rfl

/-- A busy event step is some element stored, the context, and rows of the command and result ports. -/
theorem rows_of_eventOutcome {status data : Byte} {s t : State} {p : Bool} (hbusy : s.ctx.state ≠ .idle)
    (h : EventOutcome status data (s.setPending p) t) :
    ∃ (stored : Memory) (rows : List Instr) (u : State),
      (stored = s.mem ∨
        (storesElement s status ∧ stored = s.mem.write (s.ctx.buffer + s.ctx.handledBytes) data)) ∧
      (∀ r ∈ rows, (encode s.cfg r).1 = .cmd ∨ (encode s.cfg r).1 = .res) ∧
      runRows rows { s with mem := stored } = .next u ∧ t = { u with ctx := t.ctx } := by
  have hcommand : ∀ c, ∀ r ∈ [commandRow c], (encode s.cfg r).1 = .cmd ∨ (encode s.cfg r).1 = .res := by
    simp [encode_commandRow_port]
  have hend : ∀ k, ∀ r ∈ [resultRow k, commandRow .stop], (encode s.cfg r).1 = .cmd ∨ (encode s.cfg r).1 = .res := by
    simp [encode_commandRow_port, encode_resultRow_port]
  cases h with
  | ignored hq => exact absurd hq hbusy
  | aborted k _ _ _ hv => exact ⟨_, _, _, .inl rfl, hend (.error k), runRows_end (.error k) hv, rfl⟩
  | registerDone _ _ hv | writeDone _ _ hv => exact ⟨_, _, _, .inl rfl, hend .ok, runRows_end .ok hv, rfl⟩
  | started | addressed | firstByte | restarting | nextByte | restarted | armed =>
    exact ⟨_, _, _, .inl rfl, hcommand _, runRows_command _ _, rfl⟩
  | stored hq _ hc =>
    exact ⟨_, _, _, .inr ⟨storesElement_of_received hq hc, rfl⟩, hcommand _, runRows_command _ _, rfl⟩
  | literal hq hr hc =>
    exact ⟨_, _, _, .inr ⟨storesElement_of_literal hq hr hc, rfl⟩, hcommand _, runRows_command _ _, rfl⟩
  | storedLast hq _ hc _ _ hw =>
    exact ⟨_, _, _, .inr ⟨storesElement_of_received hq hc, rfl⟩, hend .ok, runRows_end .ok hw, rfl⟩
  | literalLast hq hr hc _ _ hw =>
    refine ⟨_, commandRow .armNack :: [resultRow .ok, commandRow .stop], _,
      .inr ⟨storesElement_of_literal hq hr hc, rfl⟩,
      ?_, (runRows_cons (exec_commandRow _ _)).trans (runRows_end .ok hw), rfl⟩
    simp [encode_commandRow_port, encode_resultRow_port]

/-- Settles O38: an accepted request is its context and three rows, a busy one the row BUSY, a busy event step its rows. -/
theorem outputRowsActInsideTheBlocksSteps : Obligations.OutputRowsActInsideTheBlocksSteps := by
  intro s
  refine ⟨fun op sla reg len buf res hidle hadm => ?_, fun op sla reg len buf res hbusy hused => ?_,
    fun i status data t hbusy hop h => ?_⟩
  · rw [admittedRequestIsAccepted s op sla reg len buf res hidle hadm]
    exact (runRows_accept (s := { s with ctx := (afterAccept op sla reg len buf res s).ctx }) hadm.slotOk).symm
  · rw [busyRequestIsRejected s op sla reg len buf res hbusy hused]
    rfl
  · obtain ⟨p, hout⟩ := eventOutcome_of_exec hop h
    exact rows_of_eventOutcome hbusy hout

end Sys2Proof
end

section
/-!
Accesses outside valid caller memory (20_memory.md rule R51): an end of a transaction, an abort, a byte read and a byte
stored are each stuck there, and so is every sequencer row that comes to one.
-/
namespace Sys2Proof

open Sys2Proof.Machine Sys2Proof.Claims

theorem writeResult_stuck {s : State} (r : ResultCode) (h : validAddr s.cfg s.ctx.resultSlot = false) :
    writeResult r s = .fault .memoryNotValid :=
  memWrite_invalid h

theorem finishOk_stuck {s : State} (h : validAddr s.cfg s.ctx.resultSlot = false) :
    finishOk s = .fault .memoryNotValid := by
  rw [finishOk, writeResult_stuck .ok h, andThen_fault]

theorem abort_stuck {s : State} (k : ErrorKind) (status : Byte) (h : validAddr s.cfg s.ctx.resultSlot = false) :
    abort k status s = .fault .memoryNotValid := by
  rw [abort, writeResult_stuck (.error k) h, andThen_fault]

theorem withByteAt_stuck {a : Nat} {s : State} {f : Byte → Machine.Result} (h : validAddr s.cfg a = false) :
    withByteAt a s f = .fault .memoryNotValid := by
  simp [withByteAt, h]

/-- A selected row that expects one category is stuck on any other, where it would abort. -/
theorem onRow_unexpected_stuck {r : StepRow} {want : Category} {k : ErrorKind} {status : Byte} {s : State}
    {go : Machine.Result} (hrow : rowOf s.cfg s.ctx.state status = r) (hc : categorize s.cfg status ≠ want)
    (hslot : validAddr s.cfg s.ctx.resultSlot = false) :
    onRow r status s (if categorize s.cfg status = want then go else abort k status s) = .fault .memoryNotValid := by
  rw [onRow_selected hrow, if_neg hc, abort_stuck k status hslot]

theorem exec_stepReadByte_stuck {status data : Byte} {s : State} (hrow : rowOf s.cfg s.ctx.state status = .readByte)
    (h : validAddr s.cfg (s.ctx.buffer + s.ctx.handledBytes) = false) :
    exec (.stepReadByte status data) s = .fault .memoryNotValid := by
  refine (onRow_selected hrow).trans ?_
  rw [memWrite_invalid (a := s.elementAddr s.ctx.handledBytes) h, andThen_fault]

theorem exec_stepReadLiteral_stuck {status data : Byte} {s : State}
    (hrow : rowOf s.cfg s.ctx.state status = .readLiteral)
    (hc : categorize s.cfg status = .slarAck ∨ categorize s.cfg status = .dataRxAck ∨
      categorize s.cfg status = .dataRxNack)
    (h : validAddr s.cfg (s.ctx.buffer + s.ctx.handledBytes) = false) :
    exec (.stepReadLiteral status data) s = .fault .memoryNotValid := by
  refine ((onRow_selected hrow).trans (if_pos hc)).trans ?_
  rw [memWrite_invalid (a := s.elementAddr s.ctx.handledBytes) h, andThen_fault]

/-- The last received byte: stuck at the element, or at the result byte after it. -/
theorem exec_stepReadByte_last_stuck {status data : Byte} {s : State}
    (hrow : rowOf s.cfg s.ctx.state status = .readByte) (hlast : s.ctx.bufferLength ≤ s.handledNext)
    (hslot : validAddr s.cfg s.ctx.resultSlot = false) :
    exec (.stepReadByte status data) s = .fault .memoryNotValid := by
  cases hv : validAddr s.cfg (s.ctx.buffer + s.ctx.handledBytes) with
  | false => exact exec_stepReadByte_stuck hrow hv
  | true =>
    rw [exec_stepReadByte hrow hv, if_neg hlast.not_gt]
    exact finishOk_stuck hslot

theorem exec_stepReadLiteral_last_stuck {status data : Byte} {s : State}
    (hrow : rowOf s.cfg s.ctx.state status = .readLiteral)
    (hc : categorize s.cfg status = .slarAck ∨ categorize s.cfg status = .dataRxAck ∨
      categorize s.cfg status = .dataRxNack)
    (hlast : s.ctx.bufferLength ≤ s.handledNext) (hslot : validAddr s.cfg s.ctx.resultSlot = false) :
    exec (.stepReadLiteral status data) s = .fault .memoryNotValid := by
  cases hv : validAddr s.cfg (s.ctx.buffer + s.ctx.handledBytes) with
  | false => exact exec_stepReadLiteral_stuck hrow hc hv
  | true =>
    rw [exec_stepReadLiteral hrow hc hv, if_neg hlast.not_gt]
    exact finishOk_stuck hslot

/-- Settles O26: in each clause the hypotheses select the row and the branch that makes the access. -/
theorem invalidMemoryIsStuck : Obligations.InvalidMemoryIsStuck := by
  intro s status data c received last stuck
  refine ⟨fun hslot => ⟨fun hq hc => ?_, fun hq hc => ?_, fun hq hc => ?_, fun hq hc => ?_, fun hq hc => ?_,
    fun hq hdef hrx hlast => ?_, fun hq hdef hslar hrx => ?_, fun hq hlit hc => ?_⟩, fun hv hq hc hlen hop => ?_,
    fun hv => ⟨fun hq hc hleft => ?_, fun hq hdef hrx => ?_, fun hq hlit hc => ?_⟩⟩
  · exact onRow_unexpected_stuck (by rw [hq]; rfl) hc hslot
  · exact onRow_unexpected_stuck (by rw [hq]; rfl) hc hslot
  · have hrow : rowOf s.cfg s.ctx.state status = .writeRegisterAddress := by rw [hq]; rfl
    by_cases hack : c = .dataTxAck
    · have hzero : s.ctx.bufferLength = 0 := hc.resolve_left (not_not_intro hack)
      exact ((onRow_expected hrow hack).trans (if_pos hzero)).trans (finishOk_stuck hslot)
    · exact onRow_unexpected_stuck hrow hack hslot
  · have hrow : rowOf s.cfg s.ctx.state status = .writeData := by rw [hq]; rfl
    by_cases hack : c = .dataTxAck
    · have hdone : ¬s.ctx.handledBytes < s.ctx.bufferLength := hc.resolve_left (not_not_intro hack)
      exact ((onRow_expected hrow hack).trans (if_neg hdone)).trans (finishOk_stuck hslot)
    · exact onRow_unexpected_stuck hrow hack hslot
  · exact onRow_unexpected_stuck (by rw [hq]; rfl) hc hslot
  · exact exec_stepReadByte_last_stuck (by rw [hq]; exact rowOf_readData_received hdef hrx) hlast hslot
  · have hrow : rowOf s.cfg s.ctx.state status = .readOther := by
      rw [hq]
      exact rowOf_readData_other hdef hslar (fun h => hrx (.inl h)) (fun h => hrx (.inr h))
    exact (onRow_selected hrow).trans (abort_stuck .dataRead status hslot)
  · have hrow : rowOf s.cfg s.ctx.state status = .readLiteral := by rw [hq]; exact rowOf_readData_literal hlit status
    by_cases hstore : c = .slarAck ∨ received
    · exact exec_stepReadLiteral_last_stuck hrow hstore (hc.resolve_left (not_not_intro hstore)) hslot
    · exact ((onRow_selected hrow).trans (if_neg hstore)).trans (abort_stuck .dataRead status hslot)
  · have hrow : rowOf s.cfg s.ctx.state status = .writeRegisterAddress := by rw [hq]; rfl
    refine ((onRow_expected hrow hc).trans (if_neg hlen)).trans ?_
    rw [hop]
    exact withByteAt_stuck (a := s.elementAddr 0) hv
  · have hrow : rowOf s.cfg s.ctx.state status = .writeData := by rw [hq]; rfl
    exact ((onRow_expected hrow hc).trans (if_pos hleft)).trans
      (withByteAt_stuck (a := s.elementAddr s.ctx.handledBytes) hv)
  · exact exec_stepReadByte_stuck (by rw [hq]; exact rowOf_readData_received hdef hrx) hv
  · exact exec_stepReadLiteral_stuck (by rw [hq]; exact rowOf_readData_literal hlit status) hc hv

end Sys2Proof
end

section
/-!
The request port's refusals and NONE (40_request_api.md rules R85, R86), and the rows of the output ports one by one
(43_bus_commands.md rules R141 to R148, 30_encoding.md rules R63, R68, R70).
-/
namespace Sys2Proof

open Sys2Proof.Machine Sys2Proof.Claims

theorem requestStep_of_refused {op : Operation} {sla reg len buf res : Nat} {s : State} {r : Refusal}
    (hidle : s.ctx.state = .idle) (hadm : admission s.cfg sla reg len buf res = some r) :
    requestStep op sla reg len buf res s = .refused r := by
  rw [requestStep, if_neg (by simp [hidle]), if_neg (by simp [State.busy, hidle]), hadm]

/-- Settles O11: in `Idle` the first check that fails names the refusal. -/
theorem inadmissibleRequestIsRefused : Obligations.InadmissibleRequestIsRefused := by
  intro s op sla reg len buf res hidle
  rw [exec_request]
  refine ⟨fun hsla => requestStep_of_refused hidle ?_, fun hsla hwide => requestStep_of_refused hidle ?_,
    fun hsla hreg hlen hmem => requestStep_of_refused hidle ?_,
    fun hsla hreg hlen hregion hslot hlow hhigh => requestStep_of_refused hidle ?_⟩
  · exact if_pos hsla
  · rw [admission, if_neg (by omega), if_pos hwide]
  · rw [admission, if_neg (by omega), if_neg (by omega)]
    rw [← regionValid_iff_regionOk] at hmem
    cases hregion : regionValid s.cfg buf len with
    | false => rfl
    | true => simp_all
  · rw [← regionValid_iff_regionOk] at hregion
    rw [admission, if_neg (by omega), if_neg (by omega), hregion, hslot]
    simp [inBuffer, hlow, hhigh]

/-- Settles O13: NONE is the step that answers the state it got. -/
theorem noRequestChangesNothing : Obligations.NoRequestChangesNothing :=
  fun _ => rfl

/-- Settles O33: each command row emits its own command. -/
theorem commandsStartBusOperations : Obligations.CommandsStartBusOperations :=
  fun s b => ⟨exec_commandRow .start s, exec_commandRow .repstart s, exec_commandRow (.send b) s,
    exec_commandRow .armAck s, exec_commandRow .armNack s, exec_commandRow .stop s⟩

/-- Settles O34, by induction on the list: each command is added at its end and decides anew. -/
theorem lastCommandDecidesPending : Obligations.LastCommandDecidesPending := by
  intro s cs
  induction cs generalizing s with
  | nil => simp
  | cons c rest ih =>
    obtain ⟨hcmds, hpending⟩ := ih (s.emit c)
    refine ⟨by simpa using hcmds, ?_⟩
    rw [List.foldl_cons, hpending, List.getLast?_cons]
    cases rest.getLast? with
    | none => exact startsOperation_eq_decide c
    | some d => rfl

/-- Settles O35: the two codes have no effect to give. -/
theorem unusedCommandCodesStop : Obligations.UnusedCommandCodesStop :=
  fun _ => ⟨rfl, rfl⟩

/-- Settles O36: each result row writes its own code where the result address is valid. -/
theorem resultCodesAreWritten : Obligations.ResultCodesAreWritten := by
  intro s hslot
  have wrote : ∀ r, writeResult r s = .next { s with mem := s.mem.write s.ctx.resultSlot (resultByte r) } :=
    fun r => writeResult_eq_next.2 ⟨hslot, rfl⟩
  exact ⟨wrote .ok, wrote .inProgress, wrote (.error .startCondition), wrote (.error .address),
    wrote (.error .registerWrite), wrote (.error .dataWrite), wrote (.error .repeatedStart), wrote (.error .dataRead)⟩

/-- Settles O37: both rows are a response and nothing else. -/
theorem responsesAreGiven : Obligations.ResponsesAreGiven :=
  fun _ => ⟨rfl, rfl⟩

end Sys2Proof
end

section
/-!
One step of the schedule (00_scope.md rule R8): the foreground's loads and stores, the resets, the items on the input
ports, and in a good state the cause of every stop.
-/
namespace Sys2Proof

open Sys2Proof.Machine Sys2Proof.Claims

theorem State.busy_beginStep (s : State) (rest : List Act) : (s.beginStep rest).busy = s.busy := rfl

theorem State.inBuffer_beginStep (s : State) (rest : List Act) (a : Nat) :
    (s.beginStep rest).inBuffer a = s.inBuffer a := rfl

theorem borrowed_iff {s : State} {a : Nat} : Borrowed s a ↔ s.busy = true ∧ s.inBuffer a = true := by
  simp [Borrowed, State.inBuffer, inBuffer]

/-- A load of a valid byte that is not borrowed goes on, busy or idle (20_memory.md rule R42). -/
theorem step_ldb {s : State} {a : Nat} {rest : List Act} (hag : s.agenda = .ldb a :: rest)
    (hv : validAddr s.cfg a = true) (hfree : ¬Borrowed s a) :
    step s = .next { s with agenda := rest, cmds := [], rsp := none, seen := some (s.byteAt a) } := by
  rw [step_cons hag]
  exact foregroundLoad_eq_next.2 ⟨fun h => hfree (borrowed_iff.2 h), hv, rfl⟩

/-- A store to a valid byte that is neither borrowed nor a running transaction's result byte goes on (rule R43). -/
theorem step_stb {s : State} {a : Nat} {v : Byte} {rest : List Act} (hag : s.agenda = .stb a v :: rest)
    (hv : validAddr s.cfg a = true) (hfree : ¬Borrowed s a) (hslot : ¬ResultByteInUse s a) :
    step s = .next { s with agenda := rest, cmds := [], rsp := none, seen := none, mem := s.mem.write a v } := by
  rw [step_cons hag]
  exact foregroundStore_eq_next.2 ⟨fun h => hfree (borrowed_iff.2 h), hslot, hv, rfl⟩

/-- In an idle state nothing is borrowed. -/
theorem not_borrowed_of_idle {s : State} (hidle : s.ctx.state = .idle) (a : Nat) : ¬Borrowed s a :=
  fun h => s.busy_iff.1 h.1 hidle

theorem not_resultByteInUse_of_idle {s : State} (hidle : s.ctx.state = .idle) (a : Nat) : ¬ResultByteInUse s a :=
  fun h => s.busy_iff.1 h.1 hidle

/-- Under the invariant the result byte is no borrowed byte (rule R52). -/
theorem not_borrowed_slot {s : State} (hs : Inv s) : ¬Borrowed s s.ctx.resultSlot := by
  intro h
  obtain ⟨hbusy, hin⟩ := borrowed_iff.1 h
  exact absurd hin (by simp [(hs.ready hbusy).apart])

/-- Settles O39: the load is valid and not borrowed, and the byte is the mark of a running transaction. -/
theorem pollingWhileBusy : Obligations.PollingWhileBusy := by
  intro s rest hs hbusy hag
  rw [step_ldb hag (hs.ready hbusy).slot (not_borrowed_slot hs), hs.inProgress hbusy]
  rfl

/-- Settles O40: the load leaves the context alone, and while busy it would have seen RES_IN_PROGRESS. -/
theorem finalResultMeansIdle : Obligations.FinalResultMeansIdle := by
  intro s t rest b hs hag h hseen hfinal
  by_contra hbusy
  rw [step_cons hag] at h
  obtain ⟨-, -, rfl⟩ := foregroundLoad_eq_next.1 h
  have hmark := hs.inProgress (s.busy_iff.2 hbusy)
  exact hfinal ((Option.some.inj hseen).symm.trans hmark)

/-- Settles O41: the checks of both accesses come before the memory's own. -/
theorem borrowedMemoryHazards : Obligations.BorrowedMemoryHazards := by
  intro s a v rest hbusy
  refine ⟨fun hlow hhigh => ?_, fun hout hag => ?_⟩
  · have hborrowed : (s.busy && s.inBuffer a) = true := by
      simpa using borrowed_iff.1 ⟨hbusy, hlow, hhigh⟩
    refine ⟨fun hag => ?_, fun hag => ?_⟩
    · rw [step_cons hag]
      exact if_pos hborrowed
    · rw [step_cons hag]
      exact if_pos hborrowed
  · have hfree : s.inBuffer s.ctx.resultSlot = false := inBuffer_eq_false_iff.2 hout
    rw [step_cons hag]
    exact (if_neg (by simp [State.inBuffer_beginStep, hfree])).trans (if_pos (by simp [State.busy_beginStep, hbusy]))

/-- Settles O42: in `Idle` neither access is a hazard; canonical memory reads back what was written. -/
theorem storeThenLoad : Obligations.StoreThenLoad := by
  intro s a b v hidle hwf ha hb hag
  have hstore := step_stb hag ha (not_borrowed_of_idle hidle a) (not_resultByteInUse_of_idle hidle a)
  have hload := step_ldb (a := b) (rest := [])
    (s := { s with agenda := [.ldb b], cmds := [], rsp := none, seen := none, mem := s.mem.write a v }) rfl hb
    (not_borrowed_of_idle hidle b)
  refine ⟨_, _, hstore, hload, congrArg some ?_, rfl, rfl⟩
  by_cases hab : b = a
  · rw [if_pos hab, hab]
    exact Memory.read_write_same _ _ _ hwf
  · rw [if_neg hab]
    exact Memory.read_write_other _ _ _ _ hab

/-- Settles O43: the reset is an entry that goes on from every state. -/
theorem powerOnReset : Obligations.PowerOnReset :=
  fun _ _ hag => ⟨_, step_cons hag, rfl, rfl, rfl, rfl, rfl, rfl⟩

/-- Settles O44: as power-on, but for the bus, which the block's reset does not touch. -/
theorem midTransactionReset : Obligations.MidTransactionReset :=
  fun _ _ hag => step_cons hag

/-- Settles O45: the reset state is evaluated. -/
theorem resetLeavesContextZero : Obligations.ResetLeavesContextZero := by
  unfold Obligations.ResetLeavesContextZero
  decide

/-- Settles O54: the context is zero, so nothing is asked of a transaction; nothing is scheduled. -/
theorem resetMeetsTheInvariant : Obligations.ResetMeetsTheInvariant := by
  have hinv : Inv State.reset := inv_of_zero (by decide) State.reset_mem_wf rfl
  exact ⟨hinv, hinv, rfl, fun a ha => absurd ha List.not_mem_nil, by decide⟩

theorem runItem_error {p : Port} {bits : Nat} {s : State} {e : DecodeError} (h : decode s.cfg p bits = .error e) :
    runItem p bits s = .refused (.undecodable e) := by
  simp [runItem, h]

/-- Settles O46: the step is its entry's; an item is run by what it decodes to. -/
theorem stepRunsDecodedInstruction : Obligations.StepRunsDecodedInstruction := by
  intro s rest begun
  refine ⟨fun bits i hag hd => ?_, fun bits i hag hd => ?_, fun bits e hag hd => ?_, fun bits e hag hd => ?_,
    fun _ _ _ _ _ hag => step_cons hag, fun _ _ _ _ _ hag => step_cons hag, step_nil⟩
  · exact (step_cons hag).trans (runItem_ok (s := s.beginStep rest) hd)
  · exact (step_cons hag).trans (runItem_ok (s := s.beginStep rest) hd)
  · exact (step_cons hag).trans (runItem_error (s := s.beginStep rest) hd)
  · exact (step_cons hag).trans (runItem_error (s := s.beginStep rest) hd)

/-- The rows that a REQ word can stand for (30_encoding.md rule R62). -/
theorem decodeReq_cases (cfg : Config) (bits : Nat) :
    (∃ op sla reg len buf res, decodeReq cfg bits = request op sla reg len buf res) ∨
      decodeReq cfg bits = .errorCode ∨ decodeReq cfg bits = .noRequest := by
  unfold decodeReq
  simp only
  split_ifs
  · exact .inl ⟨.writeRegister, _, _, _, _, _, rfl⟩
  · exact .inl ⟨.readRegister, _, _, _, _, _, rfl⟩
  · exact .inr (.inl rfl)
  · exact .inr (.inr rfl)

/-- Settles O51: of the entries left, a busy request only responds and the rest write memory or an output at most. -/
theorem onlyEventsWriteABusyContext : Obligations.OnlyEventsWriteABusyContext := by
  intro s t a rest _ hbusy hag h hev hpower hblock
  rw [step_cons hag] at h
  have hrequest : ∀ op sla reg len buf res, exec (request op sla reg len buf res) (s.beginStep rest) = .next t →
      t.ctx = s.ctx ∧ t.bus = s.bus := by
    intro op sla reg len buf res hexec
    obtain ⟨-, -, hframe⟩ := requestFrame op sla reg len buf res _ t hexec
    obtain ⟨hctx, hbus, -⟩ := hframe (s.busy_iff.1 hbusy)
    exact ⟨hctx, hbus⟩
  cases a with
  | req bits =>
    simp only [runAct, runItem] at h
    split at h
    · next i hd =>
      rw [decode_req_ok hd] at h
      obtain ⟨op, sla, reg, len, buf, res, hi⟩ | hi | hi := decodeReq_cases (s.beginStep rest).cfg bits <;> rw [hi] at h
      · exact hrequest _ _ _ _ _ _ h
      · rw [eq_respond_of_exec_errorCode h]
        exact ⟨rfl, rfl⟩
      · cases h
        exact ⟨rfl, rfl⟩
    · cases h
  | ev bits => exact absurd rfl (hev bits)
  | wr sla reg buf len res => exact hrequest .writeRegister _ _ _ _ _ h
  | rd sla reg buf len res => exact hrequest .readRegister _ _ _ _ _ h
  | ldb a =>
    obtain ⟨-, -, rfl⟩ := foregroundLoad_eq_next.1 h
    exact ⟨rfl, rfl⟩
  | stb a v =>
    obtain ⟨-, -, -, rfl⟩ := foregroundStore_eq_next.1 h
    exact ⟨rfl, rfl⟩
  | powerOn => exact absurd rfl hpower
  | blockReset => exact absurd rfl hblock

/-- Outside code 7 a request step goes on, or `Idle` refuses operands that are not admitted (rule R86). -/
theorem requestStep_cases (op : Operation) (sla reg len buf res : Nat) {s : State} (hused : s.ctx.state ≠ .unused7) :
    (∃ t, requestStep op sla reg len buf res s = .next t) ∨
      ∃ r, requestStep op sla reg len buf res s = .refused r ∧ s.ctx.state = .idle ∧
        ¬Admitted s.cfg sla reg len buf res ∧ r ∈ admissionRefusals := by
  refine (requestStep_total (op := op) (sla := sla) (reg := reg) (len := len) (buf := buf) (res := res) hused).imp id ?_
  rintro ⟨hidle, r, hr, hname⟩
  refine ⟨r, hr, hidle, fun hadm => ?_, by simpa [admissionRefusals] using hname⟩
  have hnext := admittedRequestIsAccepted s op sla reg len buf res hidle hadm
  rw [exec_request, hr] at hnext
  cases hnext

/-- What an entry of the schedule does in a good state: it goes on, or stops for a cause that lies in the entry itself. -/
theorem runAct_cases {s : State} (hs : Inv s) (a : Act) :
    (∃ t, runAct a s = .next t) ∨ (∃ f, runAct a s = .fault f ∧ FaultCause s a f) ∨
      ∃ r, runAct a s = .refused r ∧ RefusalCause s a r := by
  cases a with
  | req bits =>
    by_cases hwide : 2 ^ portWidth s.cfg .req ≤ bits
    · exact .inr (.inr ⟨_, runItem_error (if_pos hwide), .wideRequest bits hwide⟩)
    have hd : decode s.cfg .req bits = .ok (decodeReq s.cfg bits) := if_neg hwide
    have hrun : runAct (.req bits) s = exec (decodeReq s.cfg bits) s := runItem_ok hd
    obtain ⟨op, sla, reg, len, buf, res, hi⟩ | hi | hi := decodeReq_cases s.cfg bits <;> rw [hi] at hd hrun
    · rw [exec_request] at hrun
      obtain ⟨t, ht⟩ | ⟨r, hr, hidle, hadm, hname⟩ := requestStep_cases op sla reg len buf res hs.used
      · exact .inl ⟨t, hrun.trans ht⟩
      · exact .inr (.inr ⟨r, hrun.trans hr, .word bits op sla reg len buf res r hidle hd hadm hname⟩)
    · exact .inl ⟨_, hrun.trans (exec_errorCode hs.used)⟩
    · exact .inl ⟨s, hrun⟩
  | ev bits =>
    by_cases hwide : 2 ^ portWidth s.cfg .ev ≤ bits
    · exact .inr (.inr ⟨_, runItem_error (if_pos hwide), .wideEvent bits hwide⟩)
    have hrun : runAct (.ev bits) s = exec (decodeEv bits) s := runItem_ok (if_neg hwide)
    rw [decodeEv, exec_eventInstr] at hrun
    cases hmay : s.mayDeliver with
    | true =>
      obtain ⟨t, ht⟩ := eventStep_total s.enterEvent (BitVec.ofNat 8 (field bits 0 8)) (BitVec.ofNat 8 (field bits 8 8))
        hs.used (fun hbusy => (hs.ready hbusy).of_eq rfl rfl rfl rfl) hs.receiving
      exact .inl ⟨t, hrun.trans (deliverEvent_eq_next.2 ⟨hmay, ht⟩)⟩
    | false =>
      have hcause : s.bus.pending = false ∧ s.cfg.spurious = .notAdmitted := by simpa [State.mayDeliver] using hmay
      exact .inr (.inl ⟨_, hrun.trans (if_neg (by simp [hmay])), .notPending bits hcause.1 hcause.2⟩)
  | wr sla reg buf len res =>
    obtain ⟨t, ht⟩ | ⟨r, hr, hidle, hadm, hname⟩ := requestStep_cases .writeRegister sla reg len buf res hs.used
    · exact .inl ⟨t, ht⟩
    · exact .inr (.inr ⟨r, hr, .writeCall sla reg len buf res r hidle hadm hname⟩)
  | rd sla reg buf len res =>
    obtain ⟨t, ht⟩ | ⟨r, hr, hidle, hadm, hname⟩ := requestStep_cases .readRegister sla reg len buf res hs.used
    · exact .inl ⟨t, ht⟩
    · exact .inr (.inr ⟨r, hr, .readCall sla reg len buf res r hidle hadm hname⟩)
  | ldb a =>
    obtain ⟨hbusy, hin, hf⟩ | ⟨hv, hf⟩ | hn := foregroundLoad_cases a s
    · exact .inr (.inl ⟨_, hf, .borrowedLoad a (borrowed_iff.2 ⟨hbusy, hin⟩)⟩)
    · exact .inr (.inl ⟨_, hf, .invalidLoad a hv⟩)
    · exact .inl ⟨_, hn⟩
  | stb a v =>
    obtain ⟨hbusy, hin, hf⟩ | ⟨hbusy, hslot, hf⟩ | ⟨hv, hf⟩ | hn := foregroundStore_cases a v s
    · exact .inr (.inl ⟨_, hf, .borrowedStore a v (borrowed_iff.2 ⟨hbusy, hin⟩)⟩)
    · exact .inr (.inl ⟨_, hf, .resultStore a v ⟨hbusy, hslot⟩⟩)
    · exact .inr (.inl ⟨_, hf, .invalidStore a v hv⟩)
    · exact .inl ⟨_, hn⟩
  | powerOn | blockReset => exact .inl ⟨_, rfl⟩

/-- A cause does not lie in the schedule and the outputs, all that the beginning of a step changes. -/
theorem faultCause_of_begun {s : State} {rest : List Act} {a : Act} {f : Fault}
    (h : FaultCause (s.beginStep rest) a f) : FaultCause s a f := by
  cases h <;> constructor <;> assumption

theorem refusalCause_of_begun {s : State} {rest : List Act} {a : Act} {r : Refusal}
    (h : RefusalCause (s.beginStep rest) a r) : RefusalCause s a r := by
  cases h <;> constructor <;> assumption

/-- What a step of a good state does: it goes on, or its head entry is the cause of the stop. -/
theorem step_cases {s : State} (hs : Inv s) :
    (∃ t, step s = .next t) ∨ (∃ f act rest, step s = .fault f ∧ s.agenda = act :: rest ∧ FaultCause s act f) ∨
      ∃ r act rest, step s = .refused r ∧ s.agenda = act :: rest ∧ RefusalCause s act r := by
  cases hag : s.agenda with
  | nil => exact .inl ⟨s, step_nil hag⟩
  | cons act rest =>
    rw [step_cons hag]
    obtain ⟨t, ht⟩ | ⟨f, hf, hcause⟩ | ⟨r, hr, hcause⟩ :=
      runAct_cases (s := s.beginStep rest) (hs.of_eq rfl rfl rfl) act
    · exact .inl ⟨t, ht⟩
    · exact .inr (.inl ⟨f, act, rest, hf, rfl, faultCause_of_begun hcause⟩)
    · exact .inr (.inr ⟨r, act, rest, hr, rfl, refusalCause_of_begun hcause⟩)

/-- Settles O57: a stop and its cause are those of the head entry; loads and stores without a cause go on. -/
theorem goodStatesStopOnlyByTheOutside : Obligations.GoodStatesStopOnlyByTheOutside := by
  intro s hs
  refine ⟨fun f hfault => ?_, fun r hrefused => ?_, fun a rest hag hv hfree => step_ldb hag hv hfree,
    fun a v rest hag hv hfree hslot => step_stb hag hv hfree hslot⟩
  · obtain ⟨t, ht⟩ | ⟨f', act, rest, hf, hag, hcause⟩ | ⟨r, act, rest, hr, -⟩ := step_cases hs
    · cases ht.symm.trans hfault
    · cases hf.symm.trans hfault
      exact ⟨act, rest, hag, hcause⟩
    · cases hr.symm.trans hfault
  · obtain ⟨t, ht⟩ | ⟨f, act, rest, hf, -⟩ | ⟨r', act, rest, hr, hag, hcause⟩ := step_cases hs
    · cases ht.symm.trans hrefused
    · cases hf.symm.trans hrefused
    · cases hr.symm.trans hrefused
      exact ⟨act, rest, hag, hcause⟩

end Sys2Proof
end

section
/-!
Whole transactions on the conforming bus (43_bus_commands.md rule R151). Each event of it is one sequencer row; a transaction
is put together from its events, each of which leads from one phase to the next.
-/
namespace Sys2Proof

open Sys2Proof.Machine Sys2Proof.Claims

/-- The state in which the event step of the next delivered event runs: nothing scheduled, no output yet. -/
def entered (s : State) : State :=
  { s with
    bus := { s.bus with pending := false }
    agenda := []
    cmds := []
    rsp := none
    seen := none }

/-- The state after an event step that emits one command and leaves this context and memory. -/
def sent (s : State) (cmd : Cmd) (ctx : Context) (mem : Memory) : State :=
  { afterCommand cmd (entered s) with
    ctx := ctx
    mem := mem }

/-- Memory after bytes received in order from the address `a` on. -/
def storeBytes : Memory → Nat → List Byte → Memory
  | m, _, [] => m
  | m, a, b :: rest => storeBytes (m.write a b) (a + 1) rest

theorem storeBytes_wf {m : Memory} (a : Nat) (bytes : List Byte) (h : m.wf = true) :
    (storeBytes m a bytes).wf = true := by
  induction bytes generalizing m a with
  | nil => exact h
  | cons b rest ih => exact ih (a + 1) (Memory.wf_write m a b h)

theorem read_storeBytes_outside (m : Memory) (a : Nat) (bytes : List Byte) {x : Nat}
    (h : ¬(a ≤ x ∧ x < a + bytes.length)) : (storeBytes m a bytes).read x = m.read x := by
  induction bytes generalizing m a with
  | nil => rfl
  | cons b rest ih =>
    rw [List.length_cons] at h
    rw [storeBytes, ih _ _ (by omega), Memory.read_write_other _ _ _ _ (by omega)]

theorem read_storeBytes_inside {m : Memory} (a : Nat) (bytes : List Byte) (hwf : m.wf = true) {i : Nat}
    (h : i < bytes.length) : some ((storeBytes m a bytes).read (a + i)) = bytes[i]? := by
  induction bytes generalizing m a i with
  | nil => cases h
  | cons b rest ih =>
    cases i with
    | zero =>
      rw [storeBytes, read_storeBytes_outside _ _ _ (by omega)]
      exact congrArg some (Memory.read_write_same m a b hwf)
    | succ i =>
      rw [List.getElem?_cons_succ, ← ih (a + 1) (Memory.wf_write m a b hwf) (Nat.lt_of_succ_lt_succ h), storeBytes,
        Nat.add_assoc a 1, Nat.add_comm 1]

/-- `s` is a state of the transaction that began in `a`: the sequencer's state, the bytes handled, memory, and the last two
commands, of which the bus has still to answer the last. -/
structure Phase (a s : State) (q : SeqState) (count : Nat) (mem : Memory) (prev : Option Cmd) (cmd : Cmd) : Prop where
  cfg : s.cfg = a.cfg
  ctx : s.ctx = { a.ctx with state := q, handledBytes := count }
  mem : s.mem = mem
  bus : s.bus = ⟨true, some cmd, prev⟩

/-- `u` is the state after the transaction that began in `a` has ended without an error, with these bytes received. -/
structure Ended (a u : State) (mem : Memory) : Prop where
  ctx : u.ctx = { a.ctx with state := .idle, handledBytes := a.ctx.bufferLength }
  pending : u.bus.pending = false
  mem : u.mem = mem.write a.ctx.resultSlot 0x00

section
variable {a s t u : State} {q q' : SeqState} {r : StepRow} {k n count count' : Nat} {status data : Byte}
  {mem mem' : Memory} {prev : Option Cmd} {cmd cmd' : Cmd} {ctx : Context} {acks : List Bool} {rx : List Byte} {any : Byte}
  {trace trace' : List Cmd} {c c' c'' : Conform}

/-- Under the default mask and table a status is read as at the default parameters. -/
theorem categorize_of_default (h : DefaultReading s) (status : Byte) :
    categorize s.cfg status = categorize defaultConfig status := by
  rw [categorize, categorize, h.mask, h.table]
  rfl

theorem step_offerEvent (hpending : s.bus.pending = true) :
    step (s.offerEvent status data) = exec (stepInstr (rowOf s.cfg s.ctx.state status) status data) (entered s) := by
  have hd : decode s.cfg .ev (encodeEv status data) = .ok (eventInstr status data) :=
    decode_of_row (encodeEv_lt status data) (congrArg Reading.row (decodeEv_encodeEv status data))
  rw [step_cons (s := s.offerEvent status data) rfl]
  refine (runItem_ok (s := (s.offerEvent status data).beginStep []) hd).trans ?_
  rw [exec_eventInstr, deliverEvent_of_pending (by exact hpending), eventStep_eq_exec]
  rfl

/-- Events one after the other. -/
theorem conformRun_add (hfirst : conformRun k c s = some (t, trace, c'))
    (hrest : conformRun n c' t = some (u, trace', c'')) :
    conformRun (n + k) c s = some (u, trace ++ trace', c'') := by
  induction k generalizing c s trace with
  | zero =>
    cases hfirst
    exact hrest
  | succ k ih =>
    rw [← Nat.add_assoc]
    simp only [conformRun] at hfirst ⊢
    split at hfirst
    · cases hfirst
    · split at hfirst
      · split at hfirst
        · next hrun =>
          cases hfirst
          simp only [ih hrun, List.append_assoc]
        · cases hfirst
      · cases hfirst
      · cases hfirst

/-- One event of the conforming bus is the selected row. -/
theorem conformRun_one (hpending : s.bus.pending = true) (hanswer : c.answer s.bus = some (status, data, c'))
    (hrow : rowOf s.cfg s.ctx.state status = r) (hexec : exec (stepInstr r status data) (entered s) = .next t) :
    conformRun 1 c s = some (t, t.cmds, c') := by
  simp only [conformRun, hanswer, step_offerEvent hpending, hrow, hexec, List.append_nil]

/-- An event that the block answers with one command leads to the next phase. -/
theorem Phase.next (h : Phase a s q count mem prev cmd)
    (hanswer : c.answer ⟨true, some cmd, prev⟩ = some (status, data, c')) (hrow : rowOf a.cfg q status = r)
    (hexec : exec (stepInstr r status data) (entered s) =
      .next (sent s cmd' { a.ctx with state := q', handledBytes := count' } mem'))
    (hcmd : cmd' ≠ .stop) :
    ∃ t, conformRun 1 c s = some (t, [cmd'], c') ∧ Phase a t q' count' mem' (some cmd) cmd' := by
  have hbus : (sent s cmd' { a.ctx with state := q', handledBytes := count' } mem').bus =
      ⟨decide (cmd' ≠ .stop), some cmd', s.bus.last⟩ := rfl
  rw [decide_eq_true hcmd, h.bus] at hbus
  refine ⟨_, conformRun_one (by rw [h.bus]) (by rw [h.bus]; exact hanswer) ?_ hexec, h.cfg, rfl, rfl, hbus⟩
  rw [h.cfg, h.ctx]
  exact hrow

/-- An event that the block answers with STOP ends the transaction. -/
theorem Phase.ends (h : Phase a s q count mem prev cmd)
    (hanswer : c.answer ⟨true, some cmd, prev⟩ = some (status, data, c')) (hrow : rowOf a.cfg q status = r)
    (hexec : exec (stepInstr r status data) (entered s) =
      .next (afterEnd 0x00 { entered s with
        ctx := { a.ctx with state := q, handledBytes := a.ctx.bufferLength }
        mem := mem' })) :
    ∃ u, conformRun 1 c s = some (u, [.stop], c') ∧ Ended a u mem' := by
  refine ⟨_, conformRun_one (by rw [h.bus]) (by rw [h.bus]; exact hanswer) ?_ hexec, rfl, rfl, rfl⟩
  rw [h.cfg, h.ctx]
  exact hrow

/-- The registers at the entry of the event. -/
theorem Phase.entered_ctx (h : Phase a s q count mem prev cmd) :
    (entered s).ctx = { a.ctx with state := q, handledBytes := count } :=
  h.ctx

/-- The answer to an acknowledged byte: an address byte is told by the command before it. -/
theorem answer_send {v : Byte} (hstatus : sendAnswer (decide (prev = some .start ∨ prev = some .repstart)) v true = status) :
    Conform.answer ⟨true :: acks, rx, any⟩ ⟨true, some (.send v), prev⟩ = some (status, any, ⟨acks, rx, any⟩) := by
  rw [← hstatus]
  rfl

theorem sendAnswer_slaW (sla : BitVec 7) : sendAnswer true (slaW sla) true = 0x18 := by
  simp [sendAnswer, slaW_eq_concat]

theorem sendAnswer_slaR (sla : BitVec 7) : sendAnswer true (slaR sla) true = 0x40 := by
  simp [sendAnswer, slaR_eq_concat]

section
variable (hread : DefaultReading a)
include hread

/-- START_SENT is answered with SLA+W. -/
theorem conformRun_start (h : Phase a s .start count mem prev .start) :
    ∃ t, conformRun 1 ⟨acks, rx, any⟩ s = some (t, [.send (slaW a.ctx.slaveAddress)], ⟨acks, rx, any⟩) ∧
      Phase a t .sendSlaveWrite count mem (some .start) (.send (slaW a.ctx.slaveAddress)) := by
  have hcat : categorize s.cfg 0x08 = .startSent := by rw [h.cfg, categorize_of_default hread]; decide
  have hexec := (startRule (entered s) 0x08 any (by rw [h.entered_ctx])).1 hcat
  rw [h.entered_ctx] at hexec
  have hrow : rowOf a.cfg .start 0x08 = .start := rfl
  obtain rfl := h.mem
  exact h.next rfl hrow hexec Cmd.noConfusion

/-- SLA+W acknowledged is answered with the register byte. -/
theorem conformRun_slaW (h : Phase a s .sendSlaveWrite count mem (some .start) (.send (slaW a.ctx.slaveAddress))) :
    ∃ t, conformRun 1 ⟨true :: acks, rx, any⟩ s = some (t, [.send a.ctx.dataRegister], ⟨acks, rx, any⟩) ∧
      Phase a t .writeRegisterAddress count mem (some (.send (slaW a.ctx.slaveAddress))) (.send a.ctx.dataRegister) := by
  have hcat : categorize s.cfg 0x18 = .slawAck := by rw [h.cfg, categorize_of_default hread]; decide
  have hexec := (sendSlaveWriteRule (entered s) 0x18 any (by rw [h.entered_ctx])).1 hcat
  rw [h.entered_ctx] at hexec
  have hrow : rowOf a.cfg .sendSlaveWrite 0x18 = .sendSlaveWrite := rfl
  obtain rfl := h.mem
  exact h.next (answer_send (sendAnswer_slaW _)) hrow hexec Cmd.noConfusion

/-- The opening of every transaction: SLA+W and the register byte. -/
theorem conformRun_opening (h : Phase a s .start count mem prev .start) :
    ∃ t, conformRun 2 ⟨true :: acks, rx, any⟩ s =
        some (t, [.send (slaW a.ctx.slaveAddress), .send a.ctx.dataRegister], ⟨acks, rx, any⟩) ∧
      Phase a t .writeRegisterAddress count mem (some (.send (slaW a.ctx.slaveAddress)))
        (.send a.ctx.dataRegister) := by
  obtain ⟨s', hfirst, h'⟩ := conformRun_start hread h
  obtain ⟨t, hsecond, ht⟩ := conformRun_slaW hread h'
  exact ⟨t, conformRun_add hfirst hsecond, ht⟩

variable {sla v : Byte}

/-- With no payload the acknowledged register byte ends the transaction, whatever the operation. -/
theorem conformRun_register_zero (h : Phase a s .writeRegisterAddress 0 mem (some (.send sla)) (.send v))
    (hlen : a.ctx.bufferLength = 0) (hready : a.MemoryReady) :
    ∃ u, conformRun 1 ⟨true :: acks, rx, any⟩ s = some (u, [.stop], ⟨acks, rx, any⟩) ∧ Ended a u mem := by
  have hcat : categorize s.cfg 0x28 = .dataTxAck := by rw [h.cfg, categorize_of_default hread]; decide
  have hexec := (writeRegisterAddressRule (entered s) 0x28 any (by rw [h.entered_ctx])).1 hcat
    (by rw [h.entered_ctx]; exact hlen) (by rw [h.entered_ctx]; exact h.cfg ▸ hready.slot)
  have hctx : (entered s).ctx = { a.ctx with state := .writeRegisterAddress, handledBytes := a.ctx.bufferLength } := by
    rw [h.entered_ctx, hlen]
  have hrow : rowOf a.cfg .writeRegisterAddress 0x28 = .writeRegisterAddress := rfl
  obtain rfl := h.mem
  exact h.ends (answer_send rfl) hrow (hctx ▸ hexec)

/-- The acknowledged register byte of a write is answered with the first payload byte. -/
theorem conformRun_firstByte (h : Phase a s .writeRegisterAddress 0 mem (some (.send sla)) (.send v))
    (hop : a.ctx.operation = .writeRegister) (hlen : 0 < a.ctx.bufferLength) (hready : a.MemoryReady) :
    ∃ t, conformRun 1 ⟨true :: acks, rx, any⟩ s = some (t, [.send (mem.read a.ctx.buffer)], ⟨acks, rx, any⟩) ∧
      Phase a t .writeData 1 mem (some (.send v)) (.send (mem.read a.ctx.buffer)) := by
  have hcat : categorize s.cfg 0x28 = .dataTxAck := by rw [h.cfg, categorize_of_default hread]; decide
  have hexec := (writeRegisterAddressRule (entered s) 0x28 any (by rw [h.entered_ctx])).2.1 hcat
    (by rw [h.entered_ctx]; exact hlen.ne') (by rw [h.entered_ctx]; exact hop)
    (by rw [h.entered_ctx]; exact h.cfg ▸ validAddr_of_regionValid hready.region hlen)
  rw [h.entered_ctx] at hexec
  have hrow : rowOf a.cfg .writeRegisterAddress 0x28 = .writeRegisterAddress := rfl
  obtain rfl := h.mem
  exact h.next (answer_send rfl) hrow hexec Cmd.noConfusion

/-- An acknowledged payload byte is answered with the next one. -/
theorem conformRun_nextByte (h : Phase a s .writeData count mem (some (.send sla)) (.send v))
    (hleft : count < a.ctx.bufferLength) (hfits : a.ctx.bufferLength < 2 ^ a.cfg.lenBits) (hready : a.MemoryReady) :
    ∃ t, conformRun 1 ⟨true :: acks, rx, any⟩ s =
        some (t, [.send (mem.read (a.ctx.buffer + count))], ⟨acks, rx, any⟩) ∧
      Phase a t .writeData (count + 1) mem (some (.send v)) (.send (mem.read (a.ctx.buffer + count))) := by
  have hcat : categorize s.cfg 0x28 = .dataTxAck := by rw [h.cfg, categorize_of_default hread]; decide
  have hexec := (writeDataRule (entered s) 0x28 any (by rw [h.entered_ctx])
    (by rw [h.entered_ctx]; exact h.cfg ▸ hfits)).1 hcat (by rw [h.entered_ctx]; exact hleft)
    (by rw [h.entered_ctx]; exact h.cfg ▸ validAddr_of_regionValid hready.region hleft)
  rw [h.entered_ctx] at hexec
  have hrow : rowOf a.cfg .writeData 0x28 = .writeData := rfl
  obtain rfl := h.mem
  exact h.next (answer_send rfl) hrow hexec Cmd.noConfusion

/-- The last payload byte, acknowledged, ends a write. -/
theorem conformRun_writeDone (h : Phase a s .writeData a.ctx.bufferLength mem (some (.send sla)) (.send v))
    (hfits : a.ctx.bufferLength < 2 ^ a.cfg.lenBits) (hready : a.MemoryReady) :
    ∃ u, conformRun 1 ⟨true :: acks, rx, any⟩ s = some (u, [.stop], ⟨acks, rx, any⟩) ∧ Ended a u mem := by
  have hcat : categorize s.cfg 0x28 = .dataTxAck := by rw [h.cfg, categorize_of_default hread]; decide
  have hexec := (writeDataRule (entered s) 0x28 any (by rw [h.entered_ctx])
    (by rw [h.entered_ctx]; exact h.cfg ▸ hfits)).2.1 hcat (by rw [h.entered_ctx]; exact lt_irrefl _)
    (by rw [h.entered_ctx]; exact h.cfg ▸ hready.slot)
  have hrow : rowOf a.cfg .writeData 0x28 = .writeData := rfl
  obtain rfl := h.mem
  exact h.ends (answer_send rfl) hrow (h.entered_ctx ▸ hexec)

/-- The payload phase of a write, by induction on the number `n` of bytes left to send. -/
theorem conformRun_writeData (n : Nat) (h : Phase a s .writeData count mem (some (.send sla)) (.send v))
    (hleft : count + n = a.ctx.bufferLength) (hfits : a.ctx.bufferLength < 2 ^ a.cfg.lenBits) (hready : a.MemoryReady) :
    ∃ u, conformRun (n + 1) ⟨List.replicate (n + 1) true ++ acks, rx, any⟩ s =
        some (u, (List.range' count n).map (fun i => Cmd.send (mem.read (a.ctx.buffer + i))) ++ [Cmd.stop],
          ⟨acks, rx, any⟩) ∧ Ended a u mem := by
  induction n generalizing s count sla v with
  | zero =>
    obtain rfl : count = a.ctx.bufferLength := hleft
    exact conformRun_writeDone hread h hfits hready
  | succ n ih =>
    obtain ⟨t, hfirst, ht⟩ := conformRun_nextByte hread h (by omega) hfits hready
    obtain ⟨u, hrest, hu⟩ := ih ht (by omega)
    exact ⟨u, (conformRun_add hfirst hrest :), hu⟩

/-- A write with a payload, from its acknowledged register byte on. -/
theorem conformRun_write (h : Phase a s .writeRegisterAddress 0 mem (some (.send sla)) (.send v))
    (hop : a.ctx.operation = .writeRegister) (hlen : a.ctx.bufferLength = n + 1)
    (hfits : a.ctx.bufferLength < 2 ^ a.cfg.lenBits) (hready : a.MemoryReady) :
    ∃ u, conformRun (n + 2) ⟨List.replicate (n + 2) true ++ acks, rx, any⟩ s =
        some (u, (List.range (n + 1)).map (fun i => Cmd.send (mem.read (a.ctx.buffer + i))) ++ [Cmd.stop],
          ⟨acks, rx, any⟩) ∧ Ended a u mem := by
  obtain ⟨t, hfirst, ht⟩ := conformRun_firstByte hread h hop (by omega) hready
  obtain ⟨u, hrest, hu⟩ := conformRun_writeData hread n ht (by omega) hfits hready
  rw [List.range_eq_range']
  exact ⟨u, (conformRun_add hfirst hrest :), hu⟩

/-- The acknowledged register byte of a read is answered with the repeated START. -/
theorem conformRun_restart (h : Phase a s .writeRegisterAddress count mem (some (.send sla)) (.send v))
    (hop : a.ctx.operation = .readRegister) (hlen : a.ctx.bufferLength ≠ 0) :
    ∃ t, conformRun 1 ⟨true :: acks, rx, any⟩ s = some (t, [.repstart], ⟨acks, rx, any⟩) ∧
      Phase a t .repeatedStart count mem (some (.send v)) .repstart := by
  have hcat : categorize s.cfg 0x28 = .dataTxAck := by rw [h.cfg, categorize_of_default hread]; decide
  have hexec := (writeRegisterAddressRule (entered s) 0x28 any (by rw [h.entered_ctx])).2.2.1 hcat
    (by rw [h.entered_ctx]; exact hlen) (by rw [h.entered_ctx]; exact hop)
  rw [h.entered_ctx] at hexec
  have hrow : rowOf a.cfg .writeRegisterAddress 0x28 = .writeRegisterAddress := rfl
  obtain rfl := h.mem
  exact h.next (answer_send rfl) hrow hexec Cmd.noConfusion

/-- REPSTART_SENT is answered with SLA+R. -/
theorem conformRun_repstart (h : Phase a s .repeatedStart count mem prev .repstart) :
    ∃ t, conformRun 1 ⟨acks, rx, any⟩ s = some (t, [.send (slaR a.ctx.slaveAddress)], ⟨acks, rx, any⟩) ∧
      Phase a t .readData count mem (some .repstart) (.send (slaR a.ctx.slaveAddress)) := by
  have hcat : categorize s.cfg 0x10 = .repstartSent := by rw [h.cfg, categorize_of_default hread]; decide
  have hexec := (repeatedStartRule (entered s) 0x10 any (by rw [h.entered_ctx])).1 hcat
  rw [h.entered_ctx] at hexec
  have hrow : rowOf a.cfg .repeatedStart 0x10 = .repeatedStart := rfl
  obtain rfl := h.mem
  exact h.next rfl hrow hexec Cmd.noConfusion

/-- SLA+R acknowledged is answered with the arm command of the first element. -/
theorem conformRun_slaR (h : Phase a s .readData count mem (some .repstart) (.send (slaR a.ctx.slaveAddress))) :
    ∃ t, conformRun 1 ⟨true :: acks, rx, any⟩ s = some (t, [arm count a.ctx.bufferLength], ⟨acks, rx, any⟩) ∧
      Phase a t .readData count mem (some (.send (slaR a.ctx.slaveAddress))) (arm count a.ctx.bufferLength) := by
  have hcat : categorize a.cfg 0x40 = .slarAck := by rw [categorize_of_default hread]; decide
  have hexec := readSlarAckRule (entered s) 0x40 any (by rw [h.entered_ctx]) (h.cfg ▸ hread.literal) (h.cfg ▸ hcat)
  have hsent : ∀ cmd, afterCommand cmd (entered s) = sent s cmd (entered s).ctx s.mem := fun _ => rfl
  rw [hsent, h.entered_ctx] at hexec
  have hrow : rowOf a.cfg .readData 0x40 = .readSlarAck := rowOf_readData_slarAck hread.literal hcat
  obtain rfl := h.mem
  exact h.next (answer_send (sendAnswer_slaR _)) hrow hexec (arm_ne_stop _ _)

/-- The answer to an arm command: a received byte, with the acknowledgement that was armed. -/
theorem answer_arm (count len : Nat) (d : Byte) :
    ∃ status, Conform.answer ⟨acks, d :: rx, any⟩ ⟨true, some (arm count len), prev⟩ =
        some (status, d, ⟨acks, rx, any⟩) ∧
      (categorize a.cfg status = .dataRxAck ∨ categorize a.cfg status = .dataRxNack) := by
  unfold arm
  split
  · exact ⟨0x50, rfl, by rw [categorize_of_default hread]; decide⟩
  · exact ⟨0x58, rfl, by rw [categorize_of_default hread]; decide⟩

/-- A received byte that is not the last is stored and answered with the arm command of the next element. -/
theorem conformRun_received {d : Byte} (h : Phase a s .readData count mem prev (arm count a.ctx.bufferLength))
    (hmore : count + 1 < a.ctx.bufferLength) (hfits : a.ctx.bufferLength < 2 ^ a.cfg.lenBits) (hready : a.MemoryReady) :
    ∃ t, conformRun 1 ⟨acks, d :: rx, any⟩ s = some (t, [arm (count + 1) a.ctx.bufferLength], ⟨acks, rx, any⟩) ∧
      Phase a t .readData (count + 1) (mem.write (a.ctx.buffer + count) d) (some (arm count a.ctx.bufferLength))
        (arm (count + 1) a.ctx.bufferLength) := by
  obtain ⟨status, hanswer, hrx⟩ := answer_arm hread (prev := prev) (acks := acks) (rx := rx) (any := any) count
    a.ctx.bufferLength d
  have hleft : count < a.ctx.bufferLength := by omega
  have hexec := (readByteRule (entered s) status d (by rw [h.entered_ctx]) (h.cfg ▸ hread.literal) (h.cfg ▸ hrx)
    (by rw [h.entered_ctx]; exact hleft) (by rw [h.entered_ctx]; exact h.cfg ▸ hfits)
    (by rw [h.entered_ctx]; exact h.cfg ▸ validAddr_of_regionValid hready.region hleft)).1
    (by rw [h.entered_ctx]; exact hmore)
  rw [h.entered_ctx] at hexec
  obtain rfl := h.mem
  exact h.next hanswer (rowOf_readData_received hread.literal hrx) hexec (arm_ne_stop _ _)

/-- The last received byte is stored and ends a read. -/
theorem conformRun_receivedLast {d : Byte} (h : Phase a s .readData count mem prev (arm count a.ctx.bufferLength))
    (hlast : count + 1 = a.ctx.bufferLength) (hfits : a.ctx.bufferLength < 2 ^ a.cfg.lenBits) (hready : a.MemoryReady) :
    ∃ u, conformRun 1 ⟨acks, d :: rx, any⟩ s = some (u, [.stop], ⟨acks, rx, any⟩) ∧
      Ended a u (mem.write (a.ctx.buffer + count) d) := by
  obtain ⟨status, hanswer, hrx⟩ := answer_arm hread (prev := prev) (acks := acks) (rx := rx) (any := any) count
    a.ctx.bufferLength d
  have hleft : count < a.ctx.bufferLength := by omega
  have hexec := (readByteRule (entered s) status d (by rw [h.entered_ctx]) (h.cfg ▸ hread.literal) (h.cfg ▸ hrx)
    (by rw [h.entered_ctx]; exact hleft) (by rw [h.entered_ctx]; exact h.cfg ▸ hfits)
    (by rw [h.entered_ctx]; exact h.cfg ▸ validAddr_of_regionValid hready.region hleft)).2
    (by rw [h.entered_ctx]; exact hlast) (by rw [h.entered_ctx]; exact h.cfg ▸ hready.slot)
  rw [h.entered_ctx] at hexec
  obtain rfl := h.mem
  refine h.ends hanswer (rowOf_readData_received hread.literal hrx) (hexec.trans ?_)
  rw [← hlast]
  rfl

/-- The payload phase of a read, by induction on the bytes `d :: ds` still to be received, the first of them armed. -/
theorem conformRun_readData (ds : List Byte) {d : Byte}
    (h : Phase a s .readData count mem prev (arm count a.ctx.bufferLength))
    (hleft : count + ds.length + 1 = a.ctx.bufferLength) (hfits : a.ctx.bufferLength < 2 ^ a.cfg.lenBits)
    (hready : a.MemoryReady) :
    ∃ u, conformRun (ds.length + 1) ⟨acks, d :: (ds ++ rx), any⟩ s =
        some (u, (List.range' (count + 1) ds.length).map (fun i => arm i a.ctx.bufferLength) ++ [Cmd.stop],
          ⟨acks, rx, any⟩) ∧
      Ended a u (storeBytes mem (a.ctx.buffer + count) (d :: ds)) := by
  induction ds generalizing s count mem prev d with
  | nil => exact conformRun_receivedLast hread h hleft hfits hready
  | cons d' rest ih =>
    rw [List.length_cons] at hleft
    obtain ⟨t, hfirst, ht⟩ := conformRun_received hread h (by omega) hfits hready
    obtain ⟨u, hrest, hu⟩ := ih ht (by omega)
    exact ⟨u, (conformRun_add hfirst hrest :), hu⟩

/-- A read, from its acknowledged register byte on. -/
theorem conformRun_read {d : Byte} {ds : List Byte}
    (h : Phase a s .writeRegisterAddress 0 mem (some (.send sla)) (.send v)) (hop : a.ctx.operation = .readRegister)
    (hlen : a.ctx.bufferLength = ds.length + 1) (hfits : a.ctx.bufferLength < 2 ^ a.cfg.lenBits)
    (hready : a.MemoryReady) :
    ∃ u, conformRun (ds.length + 4) ⟨true :: true :: acks, d :: (ds ++ rx), any⟩ s =
        some (u, .repstart :: .send (slaR a.ctx.slaveAddress) ::
          (List.replicate ds.length Cmd.armAck ++ [Cmd.armNack] ++ [Cmd.stop]), ⟨acks, rx, any⟩) ∧
      Ended a u (storeBytes mem a.ctx.buffer (d :: ds)) := by
  obtain ⟨s₁, hrestart, h₁⟩ := conformRun_restart hread h hop (by omega)
  obtain ⟨s₂, hrepstart, h₂⟩ := conformRun_repstart hread h₁
  obtain ⟨s₃, hslaR, h₃⟩ := conformRun_slaR hread h₂
  obtain ⟨u, hdata, hu⟩ := conformRun_readData hread ds h₃ (by omega) hfits hready
  refine ⟨u, ?_, hu⟩
  have harms : arm 0 (ds.length + 1) :: (List.range' 1 ds.length).map (fun i => arm i (ds.length + 1)) =
      List.replicate ds.length Cmd.armAck ++ [Cmd.armNack] := by
    rw [← map_arm_range_succ, List.range_eq_range']
    rfl
  rw [← harms]
  rw [hlen] at hslaR hdata
  exact conformRun_add hrestart (conformRun_add hrepstart (conformRun_add hslaR hdata))

end

end

/-- The first state of a transaction: the bus has to answer START. -/
theorem phase_afterAccept (op : Operation) (sla reg len buf res : Nat) (s : State) :
    Phase (afterAccept op sla reg len buf res s) (afterAccept op sla reg len buf res s) .start 0
      (s.mem.write res 0x01) s.bus.last .start :=
  ⟨rfl, rfl, rfl, rfl⟩

theorem defaultReading_afterAccept {s : State} (h : DefaultReading s) (op : Operation) (sla reg len buf res : Nat) :
    DefaultReading (afterAccept op sla reg len buf res s) :=
  ⟨h.mask, h.table, h.literal⟩

/-- An admitted request's memory is there. -/
theorem memoryReady_afterAccept {s : State} {sla reg len buf res : Nat} (h : Admitted s.cfg sla reg len buf res)
    (op : Operation) : (afterAccept op sla reg len buf res s).MemoryReady :=
  ⟨h.slotOk, regionValid_iff_regionOk.2 h.regionOk, inBuffer_eq_false_iff.2 h.slotApart⟩

/-- A transaction that stores nothing ends with RES_OK in the result byte and every other byte as before. -/
theorem memory_of_ended {s u : State} {op : Operation} {sla reg len buf res : Nat} (hwf : s.mem.wf = true)
    (h : Ended (afterAccept op sla reg len buf res s) u (s.mem.write res 0x01)) :
    u.byteAt res = 0x00 ∧ ∀ a, a ≠ res → u.byteAt a = s.byteAt a := by
  have hmem : u.mem = (s.mem.write res 0x01).write res 0x00 := h.mem
  refine ⟨?_, fun a ha => ?_⟩
  · rw [State.byteAt, hmem]
    exact Memory.read_write_same _ _ _ (Memory.wf_write _ _ _ hwf)
  · rw [State.byteAt, hmem, Memory.read_write_other _ _ _ _ ha]
    exact Memory.read_write_other _ _ _ _ ha

/-- An empty transaction of either operation, up to its end. -/
theorem conformRun_zero {s : State} (op : Operation) {sla reg buf res : Nat} (acks : List Bool) (rx : List Byte)
    (any : Byte) (hread : DefaultReading s) (hadm : Admitted s.cfg sla reg 0 buf res) :
    ∃ u, conformRun 3 ⟨true :: true :: acks, rx, any⟩ (afterAccept op sla reg 0 buf res s) =
        some (u, [.send (slaW (BitVec.ofNat 7 sla)), .send (BitVec.ofNat 8 reg), .stop], ⟨acks, rx, any⟩) ∧
      Ended (afterAccept op sla reg 0 buf res s) u (s.mem.write res 0x01) := by
  have hdef := defaultReading_afterAccept hread op sla reg 0 buf res
  obtain ⟨t, hopening, ht⟩ := conformRun_opening hdef (phase_afterAccept op sla reg 0 buf res s)
  obtain ⟨u, hend, hu⟩ := conformRun_register_zero hdef ht rfl (memoryReady_afterAccept hadm op)
  exact ⟨u, conformRun_add hopening hend, hu⟩

/-- Settles O60: the opening, then the acknowledged register byte, which ends it for either operation. -/
theorem zeroLengthTransaction : Obligations.ZeroLengthTransaction := by
  intro s op sla reg buf res acks rx any hread hwf hidle hadm
  obtain ⟨u, hrun, hend⟩ := conformRun_zero op acks rx any hread hadm
  obtain ⟨hresult, hothers⟩ := memory_of_ended hwf hend
  exact ⟨u, admittedRequestIsAccepted s op sla reg 0 buf res hidle hadm, hrun, by rw [hend.ctx], hresult, hothers⟩

/-- A write of any length, up to its end: the bytes it sends are the caller's, as the mark in the result byte is not among
them. -/
theorem conformRun_writeTransaction {s : State} {sla reg len buf res : Nat} (acks : List Bool) (rx : List Byte)
    (any : Byte) (hread : DefaultReading s) (hadm : Admitted s.cfg sla reg len buf res) :
    ∃ u, conformRun (len + 3) ⟨List.replicate (len + 2) true ++ acks, rx, any⟩
        (afterAccept .writeRegister sla reg len buf res s) =
        some (u, [Cmd.send (slaW (BitVec.ofNat 7 sla)), Cmd.send (BitVec.ofNat 8 reg)] ++
          (List.range len).map (fun i => Cmd.send (s.byteAt (buf + i))) ++ [Cmd.stop], ⟨acks, rx, any⟩) ∧
      Ended (afterAccept .writeRegister sla reg len buf res s) u (s.mem.write res 0x01) := by
  cases len with
  | zero => exact conformRun_zero .writeRegister acks rx any hread hadm
  | succ n =>
    have hdef := defaultReading_afterAccept hread .writeRegister sla reg (n + 1) buf res
    obtain ⟨t, hopening, ht⟩ := conformRun_opening hdef (phase_afterAccept .writeRegister sla reg (n + 1) buf res s)
    obtain ⟨u, hwrite, hu⟩ := conformRun_write hdef ht rfl rfl hadm.lenFits (memoryReady_afterAccept hadm .writeRegister)
    have hpayload : (List.range (n + 1)).map (fun i => Cmd.send ((s.mem.write res 0x01).read (buf + i))) =
        (List.range (n + 1)).map (fun i => Cmd.send (s.byteAt (buf + i))) := by
      refine List.map_congr_left fun i hi => congrArg Cmd.send (Memory.read_write_other _ _ _ _ fun heq => ?_)
      have := List.mem_range.1 hi
      exact hadm.slotApart (by omega)
    rw [List.append_assoc, ← hpayload]
    exact ⟨u, (conformRun_add hopening hwrite :), hu⟩

/-- Settles O58: the opening, then the payload by induction on the bytes left; with none it is the empty transaction. -/
theorem conformingWriteTransaction : Obligations.ConformingWriteTransaction := by
  intro s sla reg len buf res acks rx any hread hwf hidle hadm
  obtain ⟨u, hrun, hend⟩ := conformRun_writeTransaction acks rx any hread hadm
  obtain ⟨hresult, hothers⟩ := memory_of_ended hwf hend
  exact ⟨u, admittedRequestIsAccepted s .writeRegister sla reg len buf res hidle hadm, hrun, by rw [hend.ctx],
    hend.pending, by rw [hend.ctx]; rfl, hresult, by rw [hend.ctx]; rfl, hothers⟩

/-- Settles O59: the opening, the repeated START and SLA+R, then the bytes by induction on those still to come. -/
theorem conformingReadTransaction : Obligations.ConformingReadTransaction := by
  intro s sla reg len buf res acks received rx any hread hwf hidle hadm hpos hlength
  subst hlength
  cases received with
  | nil => cases hpos
  | cons d ds =>
    have hdef := defaultReading_afterAccept hread .readRegister sla reg (ds.length + 1) buf res
    obtain ⟨t, hopening, ht⟩ :=
      conformRun_opening hdef (phase_afterAccept .readRegister sla reg (ds.length + 1) buf res s)
    obtain ⟨u, hdata, hend⟩ :=
      conformRun_read hdef ht rfl rfl hadm.lenFits (memoryReady_afterAccept hadm .readRegister)
    have hmem : u.mem = (storeBytes (s.mem.write res 0x01) buf (d :: ds)).write res 0x00 := hend.mem
    have hmarked : (s.mem.write res 0x01).wf = true := Memory.wf_write _ _ _ hwf
    refine ⟨u, admittedRequestIsAccepted s .readRegister sla reg _ buf res hidle hadm, ?_, by rw [hend.ctx],
      hend.pending, by rw [hend.ctx]; rfl, ?_, fun i hi => ?_, fun a ha hout => ?_⟩
    · rw [List.append_assoc] at hdata
      exact (conformRun_add hopening hdata :)
    · rw [State.byteAt, hmem]
      exact Memory.read_write_same _ _ _ (storeBytes_wf _ _ hmarked)
    · have hne : buf + i ≠ res := fun heq => hadm.slotApart (by omega)
      rw [State.byteAt, hmem, Memory.read_write_other _ _ _ _ hne]
      exact read_storeBytes_inside buf (d :: ds) hmarked hi
    · rw [State.byteAt, hmem, Memory.read_write_other _ _ _ _ ha, read_storeBytes_outside _ _ _ hout]
      exact Memory.read_write_other _ _ _ _ ha

end Sys2Proof
end
